-- ==== Sys2Proof/Word.lean ====
section
/-! DEFINITION. The words of ADSP-CORE (00_scope.md R6, R7): 32-bit command words, 64-bit operand and data words,
and F64, the type of every "real number" of the spec. -/

namespace Sys2Proof

/-- A command word or a response header (R6, R86, R91). -/
abbrev Word32 := BitVec 32

/-- An operand word or a response data word (R6, R90, R91). -/
abbrev Word64 := BitVec 64

/-- An IEEE 754 binary64 value, held as its bit pattern (R7): sign in bit 63, exponent in bits 62:52, fraction in
bits 51:0. A type of its own, so that no integer operation can be applied to one by accident. -/
structure F64 where
  bits : Word64
  deriving DecidableEq, Repr, Inhabited

/-- `f64(w)` of R6: the F64 value whose pattern is `w`. -/
def f64 (w : Word64) : F64 := ⟨w⟩

/-- `bits64(v)` of R6: the bit pattern of `v`. -/
def bits64 (v : F64) : Word64 := v.bits

end Sys2Proof
end

