-- ==== Sys2Proof/Syntax.lean ====
section
/-! DEFINITION. The syntax of ADSP-CORE: units, realizations, the 52 instructions of 30_encoding.md R92 and the framed
command record of R85. -/

namespace Sys2Proof

/-- The nine units (00_scope.md R2, 30_encoding.md R87). -/
inductive UnitId where
  | bq | zlp | zhp | llp | lhp | skh | env | osn | osa
  deriving DecidableEq, Repr, Inhabited

/-- The four realizations of the biquad (10_state.md R37). -/
inductive Form where
  | direct | canonical | transposedDirect | transposedCanonical
  deriving DecidableEq, Repr, Inhabited

/-- A command as the interface frames it (R85): one command word and the operand words that follow, operand 0
first (R90). -/
structure Frame where
  cw  : Word32
  ops : List Word64
  deriving DecidableEq, Repr

/-- The instructions, one constructor for each row of R92 (opcode_table.json). F64 operands carry all 64 bits of
their operand word (R90). -/
inductive Instr where
  /-- `RESET.BQ sr` (R111). -/
  | resetBq (sr : F64)
  /-- `RESET.ZLP sr` (R133). -/
  | resetZlp (sr : F64)
  /-- `RESET.ZHP sr` (R134). -/
  | resetZhp (sr : F64)
  /-- `RESET.LLP sr` (R147). -/
  | resetLlp (sr : F64)
  /-- `RESET.LHP sr` (R148). -/
  | resetLhp (sr : F64)
  /-- `RESET.SKH sr` (R158). -/
  | resetSkh (sr : F64)
  /-- `RESET.ENV sr` (R171). -/
  | resetEnv (sr : F64)
  /-- `RESET.OSN sr` (R191). -/
  | resetOsn (sr : F64)
  /-- `RESET.OSA sr` (R202). -/
  | resetOsa (sr : F64)
  /-- `CLR.BQ` (R112). -/
  | clrBq
  /-- `SETP.BQ fc` (R114). -/
  | setpBq (fc : F64)
  /-- `SETP.ZLP fc` (R135). -/
  | setpZlp (fc : F64)
  /-- `SETP.ZHP fc` (R136). -/
  | setpZhp (fc : F64)
  /-- `SETP.LLP fc, res` (R149). -/
  | setpLlp (fc res : F64)
  /-- `SETP.LHP fc, res` (R150). -/
  | setpLhp (fc res : F64)
  /-- `SETP.SKH fc, res` (R159). -/
  | setpSkh (fc res : F64)
  /-- `SETP.ENV att, dec, sus, rel` (R172). -/
  | setpEnv (att dec sus rel : F64)
  /-- `SETP.OSN freq, pw, phs` (R192). -/
  | setpOsn (freq pw phs : F64)
  /-- `SETP.OSA freq, pw, phs` (R200). -/
  | setpOsa (freq pw phs : F64)
  /-- `GETP.BQ` (R122). -/
  | getpBq
  /-- `GETP.ZLP` (R139). -/
  | getpZlp
  /-- `GETP.ZHP` (R139). -/
  | getpZhp
  /-- `GETP.LLP` (R163). -/
  | getpLlp
  /-- `GETP.LHP` (R163). -/
  | getpLhp
  /-- `GETP.SKH` (R163). -/
  | getpSkh
  /-- `GETP.ENV` (R184). -/
  | getpEnv
  /-- `GETP.OSN` (R196). -/
  | getpOsn
  /-- `GETP.OSA` (R211). -/
  | getpOsa
  /-- `GETS.BQ idx` (R221). -/
  | getsBq (idx : BitVec 8)
  /-- `GETS.ZLP idx` (R221). -/
  | getsZlp (idx : BitVec 8)
  /-- `GETS.ZHP idx` (R221). -/
  | getsZhp (idx : BitVec 8)
  /-- `GETS.LLP idx` (R221). -/
  | getsLlp (idx : BitVec 8)
  /-- `GETS.LHP idx` (R221). -/
  | getsLhp (idx : BitVec 8)
  /-- `GETS.SKH idx` (R221). -/
  | getsSkh (idx : BitVec 8)
  /-- `GETS.ENV idx` (R221). -/
  | getsEnv (idx : BitVec 8)
  /-- `GETS.OSN idx` (R221). -/
  | getsOsn (idx : BitVec 8)
  /-- `GETS.OSA idx` (R221). -/
  | getsOsa (idx : BitVec 8)
  /-- `PROC.BQ x` (R117). -/
  | procBq (x : F64)
  /-- `PROC.ZLP x` (R137). -/
  | procZlp (x : F64)
  /-- `PROC.ZHP x` (R138). -/
  | procZhp (x : F64)
  /-- `PROC.LLP x` (R152). -/
  | procLlp (x : F64)
  /-- `PROC.LHP x` (R153). -/
  | procLhp (x : F64)
  /-- `PROC.SKH x` (R161). -/
  | procSkh (x : F64)
  /-- `REND.ENV` (R174). -/
  | rendEnv
  /-- `REND.OSN` (R194). -/
  | rendOsn
  /-- `REND.OSA` (R206). -/
  | rendOsa
  /-- `GATE.ENV b` (R173). -/
  | gateEnv (b : Bool)
  /-- `RETRIG.OSN` (R193). -/
  | retrigOsn
  /-- `RETRIG.OSA` (R203). -/
  | retrigOsa
  /-- `SETFORM.BQ f` (R116). -/
  | setformBq (f : Form)
  /-- `LDCOEF.BQ a0, a1, a2, b1, b2` (R115). -/
  | ldcoefBq (a0 a1 a2 b1 b2 : F64)
  /-- `RDFLT` (R224). -/
  | rdflt
  deriving DecidableEq, Repr

end Sys2Proof
end

