-- ==== Sys2Proof/WellFormed.lean ====
section
/-! DEFINITION. Which instructions are well formed. The types of Syntax.lean already bound every operand and immediate but
one: the register index of `GETS` (30_encoding.md R93, R98). -/

namespace Sys2Proof

/-- `last_idx` of R93: the index of the last register of a unit. -/
def lastIdx : UnitId → Nat
  | .bq => 13
  | .zlp => 6
  | .zhp => 6
  | .llp => 14
  | .lhp => 14
  | .skh => 9
  | .env => 11
  | .osn => 7
  | .osa => 37

/-- A `GETS` index names a register of the unit (R92: "IDX 0..last"). -/
def idxOk (u : UnitId) (idx : BitVec 8) : Bool := decide (idx.toNat ≤ lastIdx u)

/-- The instructions a command word can carry. -/
def Instr.wf : Instr → Bool
  | .getsBq idx => idxOk .bq idx
  | .getsZlp idx => idxOk .zlp idx
  | .getsZhp idx => idxOk .zhp idx
  | .getsLlp idx => idxOk .llp idx
  | .getsLhp idx => idxOk .lhp idx
  | .getsSkh idx => idxOk .skh idx
  | .getsEnv idx => idxOk .env idx
  | .getsOsn idx => idxOk .osn idx
  | .getsOsa idx => idxOk .osa idx
  | .resetBq _ | .resetZlp _ | .resetZhp _ | .resetLlp _ | .resetLhp _ | .resetSkh _ | .resetEnv _ | .resetOsn _
  | .resetOsa _ | .clrBq
  | .setpBq _ | .setpZlp _ | .setpZhp _ | .setpLlp _ _ | .setpLhp _ _ | .setpSkh _ _ | .setpEnv _ _ _ _
  | .setpOsn _ _ _ | .setpOsa _ _ _
  | .getpBq | .getpZlp | .getpZhp | .getpLlp | .getpLhp | .getpSkh | .getpEnv | .getpOsn | .getpOsa
  | .procBq _ | .procZlp _ | .procZhp _ | .procLlp _ | .procLhp _ | .procSkh _
  | .rendEnv | .rendOsn | .rendOsa | .gateEnv _ | .retrigOsn | .retrigOsa
  | .setformBq _ | .ldcoefBq _ _ _ _ _ | .rdflt => true

end Sys2Proof
end

