-- ==== Sys2Proof/Decode.lean ====
section
/-! DEFINITION. Decode and encode (30_encoding.md R85 to R98): the command word's fields, the decode algorithm of R93, the
operand counts of R89, and the encoder written from the same layout. -/

namespace Sys2Proof

/-- Why a frame is not an instruction. All but `misframed` are the illegal command words of R98; `misframed` is a frame
with another operand count than its command word selects, which the interface cannot present (R73, R85; log 7). -/
inductive Reject where
  /-- a bit of the ZERO field is set -/
  | zeroField
  /-- (OPC, UNIT) is not a row of R92: reserved opcode, reserved unit, or an operation the unit has not -/
  | noRow
  /-- a bit of SUB that the instruction does not use is set -/
  | subField
  /-- IDX is not zero in an instruction other than `GETS` -/
  | idxField
  /-- a `GETS` index past the unit's last register -/
  | indexPastLast
  /-- the frame's operand count is not the one of its format -/
  | misframed
  deriving DecidableEq, Repr

/-- The twelve operations (R88). -/
inductive Op where
  | reset | clr | setp | getp | gets | proc | rend | gate | retrig | setform | ldcoef | rdflt
  deriving DecidableEq, Repr

/-- An accepted command word: its row of R92 and its immediates. -/
structure Head where
  op   : Op
  unit : UnitId
  sub  : BitVec 4
  idx  : BitVec 8
  deriving DecidableEq, Repr

/-- OPC, bits 31:24 (R86). -/
def opcField (cw : Word32) : BitVec 8 := cw.extractLsb' 24 8

/-- UNIT, bits 23:20 (R86). -/
def unitField (cw : Word32) : BitVec 4 := cw.extractLsb' 20 4

/-- SUB, bits 19:16 (R86). -/
def subField (cw : Word32) : BitVec 4 := cw.extractLsb' 16 4

/-- IDX, bits 15:8 (R86). -/
def idxField (cw : Word32) : BitVec 8 := cw.extractLsb' 8 8

/-- ZERO, bits 7:0 (R86). -/
def zeroField (cw : Word32) : BitVec 8 := cw.extractLsb' 0 8

/-- The operation of an OPC value; the others are reserved (R88, R98). -/
def Op.ofCode (c : BitVec 8) : Option Op :=
  match c.toNat with
  | 0x01 => some .reset
  | 0x02 => some .clr
  | 0x03 => some .setp
  | 0x04 => some .getp
  | 0x05 => some .gets
  | 0x06 => some .proc
  | 0x07 => some .rend
  | 0x08 => some .gate
  | 0x09 => some .retrig
  | 0x0A => some .setform
  | 0x0B => some .ldcoef
  | 0x0C => some .rdflt
  | _ => none

/-- The OPC value of an operation (R88). -/
def Op.code : Op → BitVec 8
  | .reset => 0x01
  | .clr => 0x02
  | .setp => 0x03
  | .getp => 0x04
  | .gets => 0x05
  | .proc => 0x06
  | .rend => 0x07
  | .gate => 0x08
  | .retrig => 0x09
  | .setform => 0x0A
  | .ldcoef => 0x0B
  | .rdflt => 0x0C

/-- The unit of a UNIT value; 9 to 15 are reserved (R87, R98). -/
def UnitId.ofCode (c : BitVec 4) : Option UnitId :=
  match c.toNat with
  | 0 => some .bq
  | 1 => some .zlp
  | 2 => some .zhp
  | 3 => some .llp
  | 4 => some .lhp
  | 5 => some .skh
  | 6 => some .env
  | 7 => some .osn
  | 8 => some .osa
  | _ => none

/-- The UNIT value of a unit (R87). -/
def UnitId.code : UnitId → BitVec 4
  | .bq => 0
  | .zlp => 1
  | .zhp => 2
  | .llp => 3
  | .lhp => 4
  | .skh => 5
  | .env => 6
  | .osn => 7
  | .osa => 8

/-- The realization of a 2-bit form number (10_state.md R37). -/
def Form.ofCode (c : BitVec 2) : Form :=
  match c.toNat with
  | 0 => .direct
  | 1 => .canonical
  | 2 => .transposedDirect
  | _ => .transposedCanonical

/-- The form number of a realization (10_state.md R37). -/
def Form.code : Form → BitVec 2
  | .direct => 0
  | .canonical => 1
  | .transposedDirect => 2
  | .transposedCanonical => 3

/-- The operand count of a row of R92, told from OPC and UNIT alone (R88, R89); `none` where the pair is no row.
`RDFLT` needs UNIT = 0, the code of `bq`. -/
def rowOperands : Op → UnitId → Option Nat
  | .reset, _ => some 1
  | .clr, .bq => some 0
  | .setp, .bq | .setp, .zlp | .setp, .zhp => some 1
  | .setp, .llp | .setp, .lhp | .setp, .skh => some 2
  | .setp, .env => some 4
  | .setp, .osn | .setp, .osa => some 3
  | .getp, _ => some 0
  | .gets, _ => some 0
  | .proc, .bq | .proc, .zlp | .proc, .zhp | .proc, .llp | .proc, .lhp | .proc, .skh => some 1
  | .rend, .env | .rend, .osn | .rend, .osa => some 0
  | .gate, .env => some 0
  | .retrig, .osn | .retrig, .osa => some 0
  | .setform, .bq => some 0
  | .ldcoef, .bq => some 5
  | .rdflt, .bq => some 0
  | _, _ => none

/-- The checks R93 makes on SUB and IDX once the row is known. -/
def immediateReject (h : Head) : Option Reject :=
  match h.op with
  | .gets =>
    if h.sub ≠ 0 then some .subField else if idxOk h.unit h.idx then none else some .indexPastLast
  | .gate =>
    if h.sub.extractLsb' 1 3 ≠ 0 then some .subField else if h.idx ≠ 0 then some .idxField else none
  | .setform =>
    if h.sub.extractLsb' 2 2 ≠ 0 then some .subField else if h.idx ≠ 0 then some .idxField else none
  | .reset | .clr | .setp | .getp | .proc | .rend | .retrig | .ldcoef | .rdflt =>
    if h.sub ≠ 0 then some .subField else if h.idx ≠ 0 then some .idxField else none

/-- The row of a command word, before its immediates are checked: ZERO first, then (OPC, UNIT) (R93). -/
def decodeRow (cw : Word32) : Except Reject Head :=
  if zeroField cw ≠ 0 then .error .zeroField
  else
    match Op.ofCode (opcField cw), UnitId.ofCode (unitField cw) with
    | some o, some u =>
      if (rowOperands o u).isSome then .ok ⟨o, u, subField cw, idxField cw⟩ else .error .noRow
    | _, _ => .error .noRow

/-- The decode algorithm of R93 on a command word. -/
def decodeHead (cw : Word32) : Except Reject Head :=
  match decodeRow cw with
  | .error r => .error r
  | .ok h =>
    match immediateReject h with
    | some r => .error r
    | none => .ok h

/-- How many operand words follow a command word (R85, R89): none follow an illegal one (R98). -/
def operandCount (cw : Word32) : Nat :=
  match decodeHead cw with
  | .ok h => (rowOperands h.op h.unit).getD 0
  | .error _ => 0

/-- The instruction of a row of R92 with its immediates and operand words (R90); `none` where the pair is no row or the
operand count is not the row's. -/
def build (o : Op) (u : UnitId) (sub : BitVec 4) (idx : BitVec 8) (ops : List Word64) : Option Instr :=
  match o, u, ops with
  | .reset, .bq, [sr] => some (.resetBq (f64 sr))
  | .reset, .zlp, [sr] => some (.resetZlp (f64 sr))
  | .reset, .zhp, [sr] => some (.resetZhp (f64 sr))
  | .reset, .llp, [sr] => some (.resetLlp (f64 sr))
  | .reset, .lhp, [sr] => some (.resetLhp (f64 sr))
  | .reset, .skh, [sr] => some (.resetSkh (f64 sr))
  | .reset, .env, [sr] => some (.resetEnv (f64 sr))
  | .reset, .osn, [sr] => some (.resetOsn (f64 sr))
  | .reset, .osa, [sr] => some (.resetOsa (f64 sr))
  | .clr, .bq, [] => some .clrBq
  | .setp, .bq, [fc] => some (.setpBq (f64 fc))
  | .setp, .zlp, [fc] => some (.setpZlp (f64 fc))
  | .setp, .zhp, [fc] => some (.setpZhp (f64 fc))
  | .setp, .llp, [fc, res] => some (.setpLlp (f64 fc) (f64 res))
  | .setp, .lhp, [fc, res] => some (.setpLhp (f64 fc) (f64 res))
  | .setp, .skh, [fc, res] => some (.setpSkh (f64 fc) (f64 res))
  | .setp, .env, [att, dec, sus, rel] => some (.setpEnv (f64 att) (f64 dec) (f64 sus) (f64 rel))
  | .setp, .osn, [freq, pw, phs] => some (.setpOsn (f64 freq) (f64 pw) (f64 phs))
  | .setp, .osa, [freq, pw, phs] => some (.setpOsa (f64 freq) (f64 pw) (f64 phs))
  | .getp, .bq, [] => some .getpBq
  | .getp, .zlp, [] => some .getpZlp
  | .getp, .zhp, [] => some .getpZhp
  | .getp, .llp, [] => some .getpLlp
  | .getp, .lhp, [] => some .getpLhp
  | .getp, .skh, [] => some .getpSkh
  | .getp, .env, [] => some .getpEnv
  | .getp, .osn, [] => some .getpOsn
  | .getp, .osa, [] => some .getpOsa
  | .gets, .bq, [] => some (.getsBq idx)
  | .gets, .zlp, [] => some (.getsZlp idx)
  | .gets, .zhp, [] => some (.getsZhp idx)
  | .gets, .llp, [] => some (.getsLlp idx)
  | .gets, .lhp, [] => some (.getsLhp idx)
  | .gets, .skh, [] => some (.getsSkh idx)
  | .gets, .env, [] => some (.getsEnv idx)
  | .gets, .osn, [] => some (.getsOsn idx)
  | .gets, .osa, [] => some (.getsOsa idx)
  | .proc, .bq, [x] => some (.procBq (f64 x))
  | .proc, .zlp, [x] => some (.procZlp (f64 x))
  | .proc, .zhp, [x] => some (.procZhp (f64 x))
  | .proc, .llp, [x] => some (.procLlp (f64 x))
  | .proc, .lhp, [x] => some (.procLhp (f64 x))
  | .proc, .skh, [x] => some (.procSkh (f64 x))
  | .rend, .env, [] => some .rendEnv
  | .rend, .osn, [] => some .rendOsn
  | .rend, .osa, [] => some .rendOsa
  | .gate, .env, [] => some (.gateEnv (sub.getLsbD 0))
  | .retrig, .osn, [] => some .retrigOsn
  | .retrig, .osa, [] => some .retrigOsa
  | .setform, .bq, [] => some (.setformBq (Form.ofCode (sub.extractLsb' 0 2)))
  | .ldcoef, .bq, [a0, a1, a2, b1, b2] => some (.ldcoefBq (f64 a0) (f64 a1) (f64 a2) (f64 b1) (f64 b2))
  | .rdflt, .bq, [] => some .rdflt
  | _, _, _ => none

/-- A frame as the interface presents it: exactly the operand count its command word selects (R73, R85). -/
def Frame.framed (f : Frame) : Bool := f.ops.length == operandCount f.cw

/-- The decoder: total on every frame, rejecting by name. A frame the interface cannot present is `misframed`; any other
is an instruction or illegal by R93. -/
def decode (f : Frame) : Except Reject Instr :=
  if f.framed then
    match decodeHead f.cw with
    | .error r => .error r
    | .ok h =>
      match build h.op h.unit h.sub h.idx f.ops with
      | some i => .ok i
      | none => .error .misframed
  else .error .misframed

/-- The command word `OPC ++ UNIT ++ SUB ++ IDX ++ 0x00` (R92) and its operand words. -/
def mkFrame (o : Op) (u : UnitId) (sub : BitVec 4) (idx : BitVec 8) (ops : List Word64) : Frame :=
  ⟨o.code ++ u.code ++ sub ++ idx ++ (0x00 : BitVec 8), ops⟩

/-- The frame of an instruction (R86, R89, R90, R92). -/
def encode : Instr → Frame
  | .resetBq sr => mkFrame .reset .bq 0 0 [bits64 sr]
  | .resetZlp sr => mkFrame .reset .zlp 0 0 [bits64 sr]
  | .resetZhp sr => mkFrame .reset .zhp 0 0 [bits64 sr]
  | .resetLlp sr => mkFrame .reset .llp 0 0 [bits64 sr]
  | .resetLhp sr => mkFrame .reset .lhp 0 0 [bits64 sr]
  | .resetSkh sr => mkFrame .reset .skh 0 0 [bits64 sr]
  | .resetEnv sr => mkFrame .reset .env 0 0 [bits64 sr]
  | .resetOsn sr => mkFrame .reset .osn 0 0 [bits64 sr]
  | .resetOsa sr => mkFrame .reset .osa 0 0 [bits64 sr]
  | .clrBq => mkFrame .clr .bq 0 0 []
  | .setpBq fc => mkFrame .setp .bq 0 0 [bits64 fc]
  | .setpZlp fc => mkFrame .setp .zlp 0 0 [bits64 fc]
  | .setpZhp fc => mkFrame .setp .zhp 0 0 [bits64 fc]
  | .setpLlp fc res => mkFrame .setp .llp 0 0 [bits64 fc, bits64 res]
  | .setpLhp fc res => mkFrame .setp .lhp 0 0 [bits64 fc, bits64 res]
  | .setpSkh fc res => mkFrame .setp .skh 0 0 [bits64 fc, bits64 res]
  | .setpEnv att dec sus rel => mkFrame .setp .env 0 0 [bits64 att, bits64 dec, bits64 sus, bits64 rel]
  | .setpOsn freq pw phs => mkFrame .setp .osn 0 0 [bits64 freq, bits64 pw, bits64 phs]
  | .setpOsa freq pw phs => mkFrame .setp .osa 0 0 [bits64 freq, bits64 pw, bits64 phs]
  | .getpBq => mkFrame .getp .bq 0 0 []
  | .getpZlp => mkFrame .getp .zlp 0 0 []
  | .getpZhp => mkFrame .getp .zhp 0 0 []
  | .getpLlp => mkFrame .getp .llp 0 0 []
  | .getpLhp => mkFrame .getp .lhp 0 0 []
  | .getpSkh => mkFrame .getp .skh 0 0 []
  | .getpEnv => mkFrame .getp .env 0 0 []
  | .getpOsn => mkFrame .getp .osn 0 0 []
  | .getpOsa => mkFrame .getp .osa 0 0 []
  | .getsBq idx => mkFrame .gets .bq 0 idx []
  | .getsZlp idx => mkFrame .gets .zlp 0 idx []
  | .getsZhp idx => mkFrame .gets .zhp 0 idx []
  | .getsLlp idx => mkFrame .gets .llp 0 idx []
  | .getsLhp idx => mkFrame .gets .lhp 0 idx []
  | .getsSkh idx => mkFrame .gets .skh 0 idx []
  | .getsEnv idx => mkFrame .gets .env 0 idx []
  | .getsOsn idx => mkFrame .gets .osn 0 idx []
  | .getsOsa idx => mkFrame .gets .osa 0 idx []
  | .procBq x => mkFrame .proc .bq 0 0 [bits64 x]
  | .procZlp x => mkFrame .proc .zlp 0 0 [bits64 x]
  | .procZhp x => mkFrame .proc .zhp 0 0 [bits64 x]
  | .procLlp x => mkFrame .proc .llp 0 0 [bits64 x]
  | .procLhp x => mkFrame .proc .lhp 0 0 [bits64 x]
  | .procSkh x => mkFrame .proc .skh 0 0 [bits64 x]
  | .rendEnv => mkFrame .rend .env 0 0 []
  | .rendOsn => mkFrame .rend .osn 0 0 []
  | .rendOsa => mkFrame .rend .osa 0 0 []
  | .gateEnv b => mkFrame .gate .env (if b then 1 else 0) 0 []
  | .retrigOsn => mkFrame .retrig .osn 0 0 []
  | .retrigOsa => mkFrame .retrig .osa 0 0 []
  | .setformBq f => mkFrame .setform .bq (f.code.setWidth 4) 0 []
  | .ldcoefBq a0 a1 a2 b1 b2 => mkFrame .ldcoef .bq 0 0 [bits64 a0, bits64 a1, bits64 a2, bits64 b1, bits64 b2]
  | .rdflt => mkFrame .rdflt .bq 0 0 []

/-- The next `count` operand words of a table word of which `nbits` bits are left, lowest first. -/
def tableWords : Nat → Nat → Nat → List Word64
  | 0, _, _ => []
  | count + 1, nbits, v => BitVec.ofNat 64 (v % 2 ^ min nbits 64) :: tableWords count (nbits - 64) (v / 2 ^ 64)

/-- The frame whose bits are `w`, numbered as opcode_table.json numbers them: the command word is bits 31:0 and
operand word `i` the 64 bits from bit `32 + 64·i`. Bits from `nbits` up are 0. The frame carries exactly the operand
count of its command word (R85; log 12). -/
def tableFrame (nbits w : Nat) : Frame :=
  let cw : Word32 := BitVec.ofNat 32 (w % 2 ^ min nbits 32)
  ⟨cw, tableWords (operandCount cw) (nbits - 32) (w / 2 ^ 32)⟩

/-- The instruction the decoder reads from an instruction whose bits are `w`, numbered as `tableFrame` numbers them. -/
def decodeTableWord (nbits w : Nat) : Option Instr :=
  match decode (tableFrame nbits w) with
  | .ok i => some i
  | .error _ => none

end Sys2Proof
end

