-- ==== Sys2Proof/Config.lean ====
section
/-! DEFINITION. The configuration of 00_scope.md R5: the OPEN parameters and the free values, which have no body, and the
parameters the spec fixes. -/

namespace Sys2Proof

/-- TAN (R5, R16): OPEN, a total function that depends on its operand alone; nothing else may be assumed (U6, D4;
log 3). -/
opaque Config.tan : F64 → F64

/-- SAT (R5, R17): OPEN, a total function that depends on its operand alone; its named properties (R162) may be
assumed only by name (U7, D22; log 4). -/
opaque Config.sat : F64 → F64

/-- NAN_PAYLOAD (R5, R10): the draw of the `n`-th arithmetic operation of a unit. A free value, under no law (U5,
D35; log 1). Only its sign and fraction bits are used, and only where the operation's result is a NaN. -/
opaque Config.nanDraw : UnitId → Nat → Word64

/-- The choice of the `n`-th merge of two non-empty host contexts (20_memory.md R76, U10): `true` takes the
audio-rate context's next command. A free value (log 5). -/
opaque Config.mergeDraw : Nat → Bool

/-- The two ways a byte-addressed bus can carry a word. -/
inductive ByteOrder where
  | little | big
  deriving DecidableEq, Repr, Inhabited

/-- HOST_BYTE_ORDER (R5, R72): OPEN. No rule depends on it and no definition reads it (D10, U16; log 12). -/
opaque Config.hostByteOrder : ByteOrder

/-- FLUSH_MIN (R5, R12) = 2^-1022, the smallest positive normal (D3, U8; log 13). -/
def Config.flushMin : F64 := f64 0x0010000000000000

/-- KDC_PULSE (R5, R205) = 1.0 (D28, U9; log 13). -/
def Config.kdcPulse : F64 := f64 0x3FF0000000000000

/-- KDC_TRI (R5, R205) = 0.0 (D28, U9; log 13). -/
def Config.kdcTri : F64 := f64 0x0000000000000000

/-- DC_PER (R5, R205) = 1.0 (D28, U9; log 13). -/
def Config.dcPer : F64 := f64 0x3FF0000000000000

end Sys2Proof
end

