-- ==== Sys2Proof/Machine/Float.lean ====
section
/-! DEFINITION. IEEE 754 binary64 arithmetic (00_scope.md R7 to R12, R15). The exact result of an operation is computed on
integers, as a multiple of 2^-1074 (the smallest positive F64), and rounded once. An operation takes the NaN it
returns, should its result be a NaN, as its first argument: which NaN that is is a draw (R10; log 1). Details that
R8 gives by naming the standard only, such as the sign of a zero sum, are IEEE 754's (log 17). -/

namespace Sys2Proof

/-- The sign, bit 63 (R7): `true` for minus. -/
def F64.sign (a : F64) : Bool := a.bits.msb

/-- The pattern without its sign, a number: exponent and fraction (R7). -/
def F64.magBits (a : F64) : Nat := a.bits.toNat % 2 ^ 63

/-- The exponent field, bits 62:52 (R7). -/
def F64.expField (a : F64) : Nat := a.bits.toNat / 2 ^ 52 % 2 ^ 11

/-- The fraction field, bits 51:0 (R7). -/
def F64.fracField (a : F64) : Nat := a.bits.toNat % 2 ^ 52

/-- A NaN (R7). -/
def F64.isNaN (a : F64) : Bool := a.expField == 2047 && a.fracField != 0

/-- An infinity (R7). -/
def F64.isInf (a : F64) : Bool := a.expField == 2047 && a.fracField == 0

/-- `finite(v)` of R10: zeros, subnormals and normals. -/
def F64.finite (a : F64) : Bool := a.expField != 2047

/-- `+0` or `-0`. -/
def F64.isZero (a : F64) : Bool := a.magBits == 0

/-- Non-zero and below the normals: the exponent field is 0 and the fraction is not. -/
def F64.isSubnormal (a : F64) : Bool := a.expField == 0 && a.fracField != 0

/-- The magnitude of a finite F64 as a multiple of 2^-1074 (R7: bias 1023, 52 fraction bits). -/
def F64.mag (a : F64) : Nat :=
  if a.expField = 0 then a.fracField else (2 ^ 52 + a.fracField) * 2 ^ (a.expField - 1)

/-- The value of a finite F64 as a multiple of 2^-1074. -/
def F64.val (a : F64) : Int := if a.sign then -(a.mag : Int) else (a.mag : Int)

/-- The F64 with the given sign and the given pattern below it. -/
def F64.pack (neg : Bool) (m : Nat) : F64 := ⟨BitVec.ofNat 64 (m + if neg then 2 ^ 63 else 0)⟩

/-- An infinity of the given sign. -/
def F64.inf (neg : Bool) : F64 := F64.pack neg (2047 * 2 ^ 52)

/-- A zero of the given sign. -/
def F64.zero (neg : Bool) : F64 := F64.pack neg 0

/-- The NaN a draw stands for: its sign and fraction, with the exponent field of a NaN. A fraction of 0 would be an
infinity and is replaced; every NaN is still the image of some draw (R10; log 1). -/
def F64.nanOf (w : Word64) : F64 :=
  let frac := w.toNat % 2 ^ 52
  F64.pack w.msb (2047 * 2 ^ 52 + if frac = 0 then 2 ^ 51 else frac)

/-- `num / den` rounded to the nearest multiple of `2^e`, counted in those multiples, ties to even (R8). -/
def F64.nearestEven (num den e : Nat) : Nat :=
  let d := den * 2 ^ e
  let n := num / d
  let r := num % d
  if d < 2 * r || (2 * r == d && n % 2 == 1) then n + 1 else n

/-- The binary exponent of the last place of `num / den`, in units of 2^-1074: 0 below 2^53, else 52 less than the
exponent of the leading bit. -/
def F64.lastPlace (num den : Nat) : Nat := Nat.log2 (num / den) - 52

/-- The F64 nearest to `±(num / den) · 2^-1074`, ties to even; an infinity on overflow (R8). The pattern of a finite
magnitude `n · 2^e` with `2^52 ≤ n` or `e = 0` is `e · 2^52 + n`, also where rounding has carried into the next
binade. -/
def F64.round (neg : Bool) (num den : Nat) : F64 :=
  let e := F64.lastPlace num den
  F64.pack neg (min (e * 2 ^ 52 + F64.nearestEven num den e) (2047 * 2 ^ 52))

/-- Unary minus: flips the sign bit, also of a zero, an infinity or a NaN (R8). -/
def F64.neg (a : F64) : F64 := ⟨a.bits ^^^ 0x8000000000000000⟩

/-- `abs(a)`: clears the sign bit (R8). -/
def F64.abs (a : F64) : F64 := ⟨a.bits &&& 0x7FFFFFFFFFFFFFFF⟩

/-- Addition of finite values: the exact sum, rounded once. A zero sum is `-0` only where both operands are
negative (R8; log 17). -/
def F64.addFinite (a b : F64) : F64 :=
  let x := a.val + b.val
  if x = 0 then F64.zero (a.sign && b.sign) else F64.round (decide (x < 0)) x.natAbs 1

/-- `a + b` (R8); `nan` is the NaN drawn for it (R10). -/
def F64.add (nan a b : F64) : F64 :=
  if a.isNaN || b.isNaN then nan
  else if a.isInf then (if b.isInf && a.sign != b.sign then nan else a)
  else if b.isInf then b
  else F64.addFinite a b

/-- `a - b` (R8). -/
def F64.sub (nan a b : F64) : F64 := F64.add nan a b.neg

/-- `a * b` (R8): the product of two multiples of 2^-1074 is a multiple of 2^-2148. -/
def F64.mul (nan a b : F64) : F64 :=
  let neg := a.sign != b.sign
  if a.isNaN || b.isNaN then nan
  else if a.isInf || b.isInf then (if a.isZero || b.isZero then nan else F64.inf neg)
  else F64.round neg (a.mag * b.mag) (2 ^ 1074)

/-- `a / b` (R8): a non-zero finite value by zero gives an infinity, 0/0 and inf/inf a NaN. -/
def F64.div (nan a b : F64) : F64 :=
  let neg := a.sign != b.sign
  if a.isNaN || b.isNaN then nan
  else if a.isInf then (if b.isInf then nan else F64.inf neg)
  else if b.isInf then F64.zero neg
  else if b.isZero then (if a.isZero then nan else F64.inf neg)
  else F64.round neg (a.mag * 2 ^ 1074) b.mag

/-- The integer square root of `n`, two bits of `n` for each level of `fuel`; `n < 4^fuel` is enough. -/
def F64.isqrt : Nat → Nat → Nat
  | 0, _ => 0
  | fuel + 1, n =>
    let r := 2 * F64.isqrt fuel (n / 4)
    if (r + 1) * (r + 1) ≤ n then r + 1 else r

/-- The exponent of the last significand bit, in units of 2^-1074, and the significand (R7). -/
def F64.significand (a : F64) : Nat × Nat :=
  if a.expField = 0 then (0, a.fracField) else (a.expField - 1, 2 ^ 52 + a.fracField)

/-- The square root of a positive finite F64, correctly rounded (R15). With `a = m · 2^k · 2^-1074` and `k` made even,
the root is `sqrt(m · 2^108) · 2^((k + 1074) / 2 - 54)` multiples of 2^-1074; the integer root of `m · 2^108` has more
bits than an F64, and the odd last bit of `2 r + 1` stands for what lies below it. -/
def F64.sqrtFinite (a : F64) : F64 :=
  let k := a.significand.1
  let m := if k % 2 = 0 then a.significand.2 else 2 * a.significand.2
  let n := m * 2 ^ 108
  let r := F64.isqrt 82 n
  let sticky := if r * r = n then 0 else 1
  F64.round false ((2 * r + sticky) * 2 ^ ((k / 2 + 537) - 54)) 2

/-- `SQRT(a)` (R15): `SQRT(-0) = -0`, a NaN for `a < 0`. -/
def F64.sqrt (nan a : F64) : F64 :=
  if a.isNaN then nan
  else if a.isZero then a
  else if a.sign then nan
  else if a.isInf then a
  else F64.sqrtFinite a

/-- A number ordered as IEEE 754 orders the non-NaN values; `+0` and `-0` have the same one (R10, R11). -/
def F64.rank (a : F64) : Int := if a.sign then -(a.magBits : Int) else (a.magBits : Int)

/-- `a < b`, false where either is a NaN (R11). -/
def F64.lt (a b : F64) : Bool := !a.isNaN && !b.isNaN && decide (a.rank < b.rank)

/-- `a <= b`, false where either is a NaN (R11). -/
def F64.le (a b : F64) : Bool := !a.isNaN && !b.isNaN && decide (a.rank ≤ b.rank)

/-- `a > b` (R11). -/
def F64.gt (a b : F64) : Bool := F64.lt b a

/-- `a >= b` (R11). -/
def F64.ge (a b : F64) : Bool := F64.le b a

/-- `a == b`, false where either is a NaN; `+0 == -0` (R10, R11). -/
def F64.eq (a b : F64) : Bool := !a.isNaN && !b.isNaN && decide (a.rank = b.rank)

/-- `a != b`, true where either is a NaN (R11). -/
def F64.ne (a b : F64) : Bool := !F64.eq a b

/-- `FLUSH(v)` (R12): `+0.0` if `v != 0` and `abs(v) < FLUSH_MIN`, else `v`. -/
def F64.flush (v : F64) : F64 :=
  if F64.ne v (F64.zero false) && F64.lt v.abs Config.flushMin then F64.zero false else v

end Sys2Proof
end

