-- ==== Sys2Proof/Machine/State.lean ====
section
/-! DEFINITION. The state of ADSP-CORE (10_state.md R30 to R56), the response record (30_encoding.md R91), the reasons a step
can stop, and the power-on state (70_reset_and_hazards.md R250). -/

namespace Sys2Proof.Machine

/-- Registers of BQ, in index order (R34). -/
structure Bq where
  sr : F64
  fc : F64
  a0 : F64
  a1 : F64
  a2 : F64
  b1 : F64
  b2 : F64
  z0 : F64
  z1 : F64
  z2 : F64
  z3 : F64
  form : Form
  init : Bool
  zv : Bool
  deriving DecidableEq, Repr

/-- Registers of ZLP and of ZHP, in index order (R38). -/
structure Zdf where
  sr : F64
  fc : F64
  gs : F64
  gg : F64
  gr : F64
  s : F64
  init : Bool
  deriving DecidableEq, Repr

/-- Registers of LLP and of LHP, in index order (R39). -/
structure Ladder where
  sr : F64
  fc : F64
  res : F64
  k : F64
  gs : F64
  gg : F64
  gr : F64
  g2 : F64
  g3 : F64
  g4 : F64
  s1 : F64
  s2 : F64
  s3 : F64
  s4 : F64
  init : Bool
  deriving DecidableEq, Repr

/-- Registers of SKH, in index order (R40). -/
structure Skh where
  sr : F64
  fc : F64
  res : F64
  k : F64
  gs : F64
  gg : F64
  gm : F64
  s1 : F64
  s2 : F64
  init : Bool
  deriving DecidableEq, Repr

/-- EnvelopeState ST (R42). The codes 5 to 7 "are never written by any rule and cannot occur" (log 10). -/
inductive EnvState where
  | idle | attack | decay | sustain | release
  deriving DecidableEq, Repr, Inhabited

/-- Registers of ENV, in index order (R41). -/
structure Env where
  sr : F64
  att : F64
  dec : F64
  sus : F64
  rel : F64
  cnt : F64
  seg : F64
  dlt : F64
  out : F64
  st : EnvState
  gate : Bool
  init : Bool
  deriving DecidableEq, Repr

/-- Registers of OSN, in index order (R43). -/
structure Osn where
  sr : F64
  freq : F64
  pw : F64
  phs : F64
  inc : F64
  ph : F64
  tph : F64
  init : Bool
  deriving DecidableEq, Repr

/-- The direction of OSA's triangle (R45). -/
inductive Dir where
  | up | down
  deriving DecidableEq, Repr, Inhabited

/-- A corrector triple `(c2, c1, c0)` (R20, R44). -/
structure Triple where
  c2 : F64
  c1 : F64
  c0 : F64
  deriving DecidableEq, Repr

/-- Registers of OSA, in index order; each triple stands for its three registers (R44). -/
structure Osa where
  sr : F64
  freq : F64
  pw : F64
  phs : F64
  d : F64
  inc2 : F64
  sthr : F64
  rd : F64
  e : F64
  elo : F64
  ehi : F64
  a : F64
  b : F64
  tthr : F64
  bthr : F64
  rba : F64
  rab : F64
  dcp : F64
  dct : F64
  sawc : Triple
  pupc : Triple
  pdnc : Triple
  topc : Triple
  botc : Triple
  ps : F64
  pt : F64
  dir : Dir
  init : Bool
  deriving DecidableEq, Repr

/-- STATUS of a response (R91, R231). The codes 4 to 15 are never produced. -/
inductive Status where
  | ok | illegal | notInit | stateUndef
  deriving DecidableEq, Repr, Inhabited

/-- A response: the STATUS and the data words; the header's other fields follow from them (R91). -/
structure Response where
  status : Status
  data   : List Word64
  deriving DecidableEq, Repr

/-- The model's own counters: how many arithmetic operations each unit has performed, the index of its next NaN draw
(R10; log 1). -/
structure Draws where
  bq : Nat
  zlp : Nat
  zhp : Nat
  llp : Nat
  lhp : Nat
  skh : Nat
  env : Nat
  osn : Nat
  osa : Nat
  deriving DecidableEq, Repr

/-- The whole state: the nine units' registers and FLT (R30, R46), and, as the model's own fields, the two host
contexts' pending commands, the count of merge choices, the NaN draw counters and the responses given, newest first
(log 1, log 5, log 8). -/
structure State where
  bq : Bq
  zlp : Zdf
  zhp : Zdf
  llp : Ladder
  lhp : Ladder
  skh : Skh
  env : Env
  osn : Osn
  osa : Osa
  flt : BitVec 4
  audio : List Frame
  control : List Frame
  merges : Nat
  draws : Draws
  responses : List Response
  deriving DecidableEq, Repr

/-- Why a step stops for good. The block itself never does (60_exceptions.md R230, U-table of
93_implementation_defined.md: "every command terminates with a response"). -/
inductive Fault where
  /-- Raised by `step` when the next pending frame has another operand count than its command word selects. R73 says
  such a command "cannot be presented", so no hardware run reaches it: safe (log 7). -/
  | misframed
  deriving DecidableEq, Repr

/-- Why a step has no meaning. -/
inductive Refusal where
  /-- Raised only by an arm of `exec` whose instruction has no meaning yet; there is none. Safe. -/
  | notModelled (mnemonic : String)
  deriving DecidableEq, Repr

/-- `+0.0`. -/
def pz : F64 := f64 0x0000000000000000

/-- Power-on registers of BQ (R34, R250). -/
def bqReset : Bq :=
  ⟨pz, f64 0x4059000000000000, pz, pz, pz, pz, pz, pz, pz, pz, pz, .transposedCanonical, false, true⟩

/-- Power-on registers of ZLP and ZHP (R38, R250). -/
def zdfReset : Zdf := ⟨pz, f64 0x4059000000000000, pz, pz, pz, pz, false⟩

/-- Power-on registers of LLP and LHP (R39, R250). -/
def ladderReset : Ladder :=
  ⟨pz, f64 0x4059000000000000, pz, pz, pz, pz, pz, pz, pz, pz, pz, pz, pz, pz, false⟩

/-- Power-on registers of SKH (R40, R250). -/
def skhReset : Skh := ⟨pz, f64 0x4059000000000000, pz, pz, pz, pz, pz, pz, pz, false⟩

/-- Power-on registers of ENV (R41, R250). -/
def envReset : Env :=
  { sr := pz, att := f64 0x3FD0000000000000, dec := f64 0x3FE0000000000000, sus := f64 0x3FD999999999999A,
    rel := f64 0x3FF8000000000000, cnt := pz, seg := pz, dlt := pz, out := pz, st := .idle, gate := false,
    init := false }

/-- Power-on registers of OSN (R43, R250). -/
def osnReset : Osn :=
  ⟨pz, f64 0x407B800000000000, f64 0x3FE0000000000000, pz, pz, pz, pz, false⟩

/-- Power-on registers of OSA (R44, R250). -/
def osaReset : Osa :=
  { sr := pz, freq := f64 0x407B800000000000, pw := f64 0x3FE0000000000000, phs := pz, d := pz, inc2 := pz,
    sthr := pz, rd := pz, e := pz, elo := pz, ehi := pz, a := pz, b := pz, tthr := pz, bthr := pz, rba := pz,
    rab := pz, dcp := pz, dct := pz, sawc := ⟨pz, pz, pz⟩, pupc := ⟨pz, pz, pz⟩, pdnc := ⟨pz, pz, pz⟩,
    topc := ⟨pz, pz, pz⟩, botc := ⟨pz, pz, pz⟩, ps := pz, pt := pz, dir := .up, init := false }

/-- The power-on state (R250); no command is pending and no response given (log 6, log 9). -/
def State.reset : State :=
  { bq := bqReset, zlp := zdfReset, zhp := zdfReset, llp := ladderReset, lhp := ladderReset, skh := skhReset,
    env := envReset, osn := osnReset, osa := osaReset, flt := 0, audio := [], control := [], merges := 0,
    draws := ⟨0, 0, 0, 0, 0, 0, 0, 0, 0⟩, responses := [] }

end Sys2Proof.Machine
end

