-- ==== Sys2Proof/Machine/Flags.lean ====
section
/-! DEFINITION. The flags: the bits of FLT (10_state.md R46), the flag each refusal sets (60_exceptions.md R232), the NF
flag (R239), and the numbers under which `GETS` and the response header show the small fields. -/

namespace Sys2Proof.Machine

/-- FLT bit 0, ILL (R46). -/
def fltIll : BitVec 4 := 0b0001

/-- FLT bit 1, NINIT (R46). -/
def fltNinit : BitVec 4 := 0b0010

/-- FLT bit 2, SUNDEF (R46). -/
def fltSundef : BitVec 4 := 0b0100

/-- FLT bit 3, NF (R46). -/
def fltNf : BitVec 4 := 0b1000

/-- `flag(code)` of R232; OK sets none (R231). -/
def Status.flag : Status → BitVec 4
  | .ok => 0
  | .illegal => fltIll
  | .notInit => fltNinit
  | .stateUndef => fltSundef

/-- The NF bit a value sets when `wr` stores it or `out` returns it (R13, R14, R239). -/
def nfFlag (t : F64) : BitVec 4 := if t.finite then 0 else fltNf

/-- The STATUS code (R91, R231). -/
def Status.code : Status → BitVec 4
  | .ok => 0
  | .illegal => 1
  | .notInit => 2
  | .stateUndef => 3

/-- The ST code (R42). -/
def EnvState.code : EnvState → BitVec 3
  | .idle => 0
  | .attack => 1
  | .decay => 2
  | .sustain => 3
  | .release => 4

/-- The DIR code (R45). -/
def Dir.code : Dir → BitVec 1
  | .up => 0
  | .down => 1

/-- `zext_64` of a 1-bit flag (R6). -/
def boolWord (b : Bool) : Word64 := if b then 1 else 0

end Sys2Proof.Machine
end

