-- ==== Sys2Proof/Machine/Ops.lean ====
section
/-! DEFINITION. The named operations: the arithmetic of one command (00_scope.md R8, R15), register reads and writes (R13,
R22), `out` (R14), running a unit's rule and giving its response (30_encoding.md R85, R91), the fault primitive
(60_exceptions.md R232) and taking the next command from the port (20_memory.md R75, R76). -/

namespace Sys2Proof.Machine

/-- What a command works on: the addressed unit's registers, its NaN draw counter, and the FLT bits the command has
set so far. -/
structure Work (U : Type) where
  unit  : UnitId
  regs  : U
  draws : Nat
  flags : BitVec 4

/-- A rule's computation over the addressed unit: one line of pseudocode after the other (R22). -/
abbrev Calc (U : Type) := StateM (Work U)

/-- A register of a unit: how it is read and how it is replaced (R22). -/
structure Reg (U : Type) where
  get : U → F64
  set : F64 → U → U

/-- The NaN of a unit's `n`-th arithmetic operation, should its result be a NaN (R10; log 1). -/
def nanAt (u : UnitId) (n : Nat) : F64 := F64.nanOf (Config.nanDraw u n)

/-- The NaN of the next operation; the counter advances. -/
def draw {U : Type} : Calc U F64 := fun w => (nanAt w.unit w.draws, { w with draws := w.draws + 1 })

/-- `a + b` as one operation of a command (R8, R10). -/
def fadd {U : Type} (a b : F64) : Calc U F64 := do return F64.add (← draw) a b

/-- `a - b` as one operation of a command (R8, R10). -/
def fsub {U : Type} (a b : F64) : Calc U F64 := do return F64.sub (← draw) a b

/-- `a * b` as one operation of a command (R8, R10). -/
def fmul {U : Type} (a b : F64) : Calc U F64 := do return F64.mul (← draw) a b

/-- `a / b` as one operation of a command (R8, R10). -/
def fdiv {U : Type} (a b : F64) : Calc U F64 := do return F64.div (← draw) a b

/-- `SQRT(a)` as one operation of a command (R10, R15). -/
def fsqrt {U : Type} (a : F64) : Calc U F64 := do return F64.sqrt (← draw) a

/-- The unit's registers as they are now. -/
def regs {U : Type} : Calc U U := fun w => (w.regs, w)

/-- `REG` on the right of a rule: the register as it is now. -/
def rd {U : Type} (r : Reg U) : Calc U F64 := fun w => (r.get w.regs, w)

/-- Plain register writes `REG <- v`: no flush, no flag (R13). -/
def plain {U : Type} (f : U → U) : Calc U Unit := fun w => ((), { w with regs := f w.regs })

/-- `wr(REG, v)` (R13): the state write primitive. -/
def wr {U : Type} (r : Reg U) (v : F64) : Calc U Unit := fun w =>
  ((), { w with regs := r.set v.flush w.regs, flags := w.flags ||| nfFlag v.flush })

/-- `out(v)` (R14): the output primitive. -/
def out {U : Type} (v : F64) : Calc U F64 := fun w =>
  (v.flush, { w with flags := w.flags ||| nfFlag v.flush })

/-- Where a unit's registers stand in the state. -/
structure Slot (U : Type) where
  unit : UnitId
  get  : State → U
  put  : U → State → State

/-- The slot of BQ. -/
def slotBq : Slot Bq := ⟨.bq, fun s => s.bq, fun u s => { s with bq := u }⟩

/-- The slot of ZLP. -/
def slotZlp : Slot Zdf := ⟨.zlp, fun s => s.zlp, fun u s => { s with zlp := u }⟩

/-- The slot of ZHP. -/
def slotZhp : Slot Zdf := ⟨.zhp, fun s => s.zhp, fun u s => { s with zhp := u }⟩

/-- The slot of LLP. -/
def slotLlp : Slot Ladder := ⟨.llp, fun s => s.llp, fun u s => { s with llp := u }⟩

/-- The slot of LHP. -/
def slotLhp : Slot Ladder := ⟨.lhp, fun s => s.lhp, fun u s => { s with lhp := u }⟩

/-- The slot of SKH. -/
def slotSkh : Slot Skh := ⟨.skh, fun s => s.skh, fun u s => { s with skh := u }⟩

/-- The slot of ENV. -/
def slotEnv : Slot Env := ⟨.env, fun s => s.env, fun u s => { s with env := u }⟩

/-- The slot of OSN. -/
def slotOsn : Slot Osn := ⟨.osn, fun s => s.osn, fun u s => { s with osn := u }⟩

/-- The slot of OSA. -/
def slotOsa : Slot Osa := ⟨.osa, fun s => s.osa, fun u s => { s with osa := u }⟩

/-- A unit's NaN draw counter. -/
def Draws.get (d : Draws) : UnitId → Nat
  | .bq => d.bq
  | .zlp => d.zlp
  | .zhp => d.zhp
  | .llp => d.llp
  | .lhp => d.lhp
  | .skh => d.skh
  | .env => d.env
  | .osn => d.osn
  | .osa => d.osa

/-- A unit's NaN draw counter replaced. -/
def Draws.set (d : Draws) (u : UnitId) (n : Nat) : Draws :=
  match u with
  | .bq => { d with bq := n }
  | .zlp => { d with zlp := n }
  | .zhp => { d with zhp := n }
  | .llp => { d with llp := n }
  | .lhp => { d with lhp := n }
  | .skh => { d with skh := n }
  | .env => { d with env := n }
  | .osn => { d with osn := n }
  | .osa => { d with osa := n }

/-- The response header (R91): STATUS in bits 3:0, NDATA in bits 7:4, zeros above. -/
def Response.header (r : Response) : Word32 :=
  (0 : BitVec 24) ++ BitVec.ofNat 4 r.data.length ++ r.status.code

/-- `Resp(OK, d0, ..)` (R22, R91): the command ends with its response and nothing else. -/
def State.respond (data : List Word64) (s : State) : State :=
  { s with responses := ⟨.ok, data⟩ :: s.responses }

/-- `fault(code)` (R22, R232), the one operation by which a command is refused: FLT gets the code's flag, the response
carries the code and no data, nothing else changes. It takes the place of taking an exception, of which the block
has none (R230, R243). -/
def State.refuse (code : Status) (s : State) : State :=
  { s with flt := s.flt ||| code.flag, responses := ⟨code, []⟩ :: s.responses }

/-- A unit's rule, run to completion and answered OK: the unit's registers and draw counter as the rule leaves them,
FLT with the flags it set, and its response (R75, R85, R91). -/
def State.run {U : Type} (k : Slot U) (c : Calc U (List Word64)) (s : State) : State :=
  let w := c ⟨k.unit, k.get s, s.draws.get k.unit, 0⟩
  let t := k.put w.2.regs s
  State.respond w.1 { t with draws := s.draws.set k.unit w.2.draws, flt := s.flt ||| w.2.flags }

/-- A unit's rule that needs INIT = 1: refused NOT_INIT otherwise (R234, R238). -/
def State.runInit {U : Type} (k : Slot U) (init : Bool) (c : Calc U (List Word64)) (s : State) : State :=
  if init then s.run k c else s.refuse .notInit

/-- `GETS` of register `idx` from a unit's registers in index order (R221); an index past the last one is no
instruction and is refused as R93 refuses its command word (log 11). -/
def State.readBack (words : List Word64) (idx : BitVec 8) (s : State) : State :=
  match words[idx.toNat]? with
  | some w => s.respond [w]
  | none => s.refuse .illegal

/-- The next command at the port: a pending frame of one of the two host contexts, each in its own order (R75, R76).
Where both have one pending, the choice is a free value (log 5). -/
def State.accept (s : State) : Option (Frame × State) :=
  match s.audio, s.control with
  | [], [] => none
  | f :: rest, [] => some (f, { s with audio := rest })
  | [], f :: rest => some (f, { s with control := rest })
  | f :: fs, g :: gs =>
    if Config.mergeDraw s.merges then some (f, { s with audio := fs, merges := s.merges + 1 })
    else some (g, { s with control := gs, merges := s.merges + 1 })

/-- The host has presented exactly one command (R85): the given frame, from the audio-rate context. -/
def State.present (f : Frame) (s : State) : State := { s with audio := [f], control := [] }

end Sys2Proof.Machine
end

