-- ==== Sys2Proof/Machine/Operands.lean ====
section
/-! DEFINITION. Operands: the constants of 00_scope.md R18, the utility maps of R19 and R20, the state registers `wr` writes,
and every unit's registers in index order, as `GETS` reads them (10_state.md R32 to R44, 45_system.md R221). -/

namespace Sys2Proof.Machine

/-- `+0.0`, the zero the rules write. -/
def fZero : F64 := f64 0x0000000000000000

/-- 0.5. -/
def fHalf : F64 := f64 0x3FE0000000000000

/-- 1.0. -/
def fOne : F64 := f64 0x3FF0000000000000

/-- -1.0. -/
def fNegOne : F64 := f64 0xBFF0000000000000

/-- 2.0. -/
def fTwo : F64 := f64 0x4000000000000000

/-- PEAK = 8.0 (R18). -/
def cPeak : F64 := f64 0x4020000000000000

/-- VMAX = 12.0 (R18). -/
def cVmax : F64 := f64 0x4028000000000000

/-- EPS, the F64 nearest 1e-5 (R18). -/
def cEps : F64 := f64 0x3EE4F8B588E368F1

/-- ATKF = 1.5 (R18). -/
def cAtkf : F64 := f64 0x3FF8000000000000

/-- PI (R18). -/
def cPi : F64 := f64 0x400921FB54442D18

/-- TWO_PI (R18). -/
def cTwoPi : F64 := f64 0x401921FB54442D18

/-- KLAD = 4.0 (R18). -/
def cKlad : F64 := f64 0x4010000000000000

/-- KSK = 2.0 (R18). -/
def cKsk : F64 := f64 0x4000000000000000

/-- `UNI2BI(p) = 2.0*p - 1.0` (R19). -/
def uni2bi {U : Type} (p : F64) : Calc U F64 := do fsub (← fmul fTwo p) fOne

/-- `SKEW05(t) = SQRT(t)` (R19). -/
def skew05 {U : Type} (t : F64) : Calc U F64 := fsqrt t

/-- `SKEW2(t) = t*t` (R19). -/
def skew2 {U : Type} (t : F64) : Calc U F64 := fmul t t

/-- `MAPLIN(m, lo, hi) = lo + (hi - lo)*m` (R19). -/
def mapLin {U : Type} (m lo hi : F64) : Calc U F64 := do fadd lo (← fmul (← fsub hi lo) m)

/-- `POLY2(C, p) = (c2*p + c1)*p + c0` (R20). -/
def poly2 {U : Type} (c : Triple) (p : F64) : Calc U F64 := do
  fadd (← fmul (← fadd (← fmul c.c2 p) c.c1) p) c.c0

/-- BQ.Z0 (R34). -/
def regZ0 : Reg Bq := ⟨fun u => u.z0, fun v u => { u with z0 := v }⟩

/-- BQ.Z1 (R34). -/
def regZ1 : Reg Bq := ⟨fun u => u.z1, fun v u => { u with z1 := v }⟩

/-- BQ.Z2 (R34). -/
def regZ2 : Reg Bq := ⟨fun u => u.z2, fun v u => { u with z2 := v }⟩

/-- BQ.Z3 (R34). -/
def regZ3 : Reg Bq := ⟨fun u => u.z3, fun v u => { u with z3 := v }⟩

/-- S of ZLP and ZHP (R38). -/
def regS : Reg Zdf := ⟨fun u => u.s, fun v u => { u with s := v }⟩

/-- S1 of LLP and LHP (R39). -/
def regL1 : Reg Ladder := ⟨fun u => u.s1, fun v u => { u with s1 := v }⟩

/-- S2 of LLP and LHP (R39). -/
def regL2 : Reg Ladder := ⟨fun u => u.s2, fun v u => { u with s2 := v }⟩

/-- S3 of LLP and LHP (R39). -/
def regL3 : Reg Ladder := ⟨fun u => u.s3, fun v u => { u with s3 := v }⟩

/-- S4 of LLP and LHP (R39). -/
def regL4 : Reg Ladder := ⟨fun u => u.s4, fun v u => { u with s4 := v }⟩

/-- SKH.S1 (R40). -/
def regK1 : Reg Skh := ⟨fun u => u.s1, fun v u => { u with s1 := v }⟩

/-- SKH.S2 (R40). -/
def regK2 : Reg Skh := ⟨fun u => u.s2, fun v u => { u with s2 := v }⟩

/-- ENV.CNT (R41). -/
def regCnt : Reg Env := ⟨fun u => u.cnt, fun v u => { u with cnt := v }⟩

/-- ENV.SEG (R41). -/
def regSeg : Reg Env := ⟨fun u => u.seg, fun v u => { u with seg := v }⟩

/-- ENV.DLT (R41). -/
def regDlt : Reg Env := ⟨fun u => u.dlt, fun v u => { u with dlt := v }⟩

/-- ENV.OUT (R41). -/
def regOut : Reg Env := ⟨fun u => u.out, fun v u => { u with out := v }⟩

/-- OSN.PH (R43). -/
def regPh : Reg Osn := ⟨fun u => u.ph, fun v u => { u with ph := v }⟩

/-- OSN.TPH (R43). -/
def regTph : Reg Osn := ⟨fun u => u.tph, fun v u => { u with tph := v }⟩

/-- OSA.PS (R44). -/
def regPs : Reg Osa := ⟨fun u => u.ps, fun v u => { u with ps := v }⟩

/-- OSA.PT (R44). -/
def regPt : Reg Osa := ⟨fun u => u.pt, fun v u => { u with pt := v }⟩

/-- BQ's registers in index order, as `GETS` returns them (R34, R221). -/
def Bq.words (u : Bq) : List Word64 :=
  [u.sr, u.fc, u.a0, u.a1, u.a2, u.b1, u.b2, u.z0, u.z1, u.z2, u.z3].map bits64 ++
    [u.form.code.setWidth 64, boolWord u.init, boolWord u.zv]

/-- The registers of ZLP or ZHP in index order (R38, R221). -/
def Zdf.words (u : Zdf) : List Word64 :=
  [u.sr, u.fc, u.gs, u.gg, u.gr, u.s].map bits64 ++ [boolWord u.init]

/-- The registers of LLP or LHP in index order (R39, R221). -/
def Ladder.words (u : Ladder) : List Word64 :=
  [u.sr, u.fc, u.res, u.k, u.gs, u.gg, u.gr, u.g2, u.g3, u.g4, u.s1, u.s2, u.s3, u.s4].map bits64 ++
    [boolWord u.init]

/-- SKH's registers in index order (R40, R221). -/
def Skh.words (u : Skh) : List Word64 :=
  [u.sr, u.fc, u.res, u.k, u.gs, u.gg, u.gm, u.s1, u.s2].map bits64 ++ [boolWord u.init]

/-- ENV's registers in index order (R41, R221). -/
def Env.words (u : Env) : List Word64 :=
  [u.sr, u.att, u.dec, u.sus, u.rel, u.cnt, u.seg, u.dlt, u.out].map bits64 ++
    [u.st.code.setWidth 64, boolWord u.gate, boolWord u.init]

/-- OSN's registers in index order (R43, R221). -/
def Osn.words (u : Osn) : List Word64 :=
  [u.sr, u.freq, u.pw, u.phs, u.inc, u.ph, u.tph].map bits64 ++ [boolWord u.init]

/-- The three registers of a triple in index order (R44). -/
def Triple.list (t : Triple) : List F64 := [t.c2, t.c1, t.c0]

/-- OSA's registers in index order (R44, R221). -/
def Osa.words (u : Osa) : List Word64 :=
  ([u.sr, u.freq, u.pw, u.phs, u.d, u.inc2, u.sthr, u.rd, u.e, u.elo, u.ehi, u.a, u.b, u.tthr, u.bthr, u.rba,
      u.rab, u.dcp, u.dct] ++
    u.sawc.list ++ u.pupc.list ++ u.pdnc.list ++ u.topc.list ++ u.botc.list ++ [u.ps, u.pt]).map bits64 ++
    [u.dir.code.setWidth 64, boolWord u.init]

end Sys2Proof.Machine
end

