-- ==== Sys2Proof/Machine/Biquad.lean ====
section
/-! DEFINITION. Unit BQ (40_biquad.md): the second-order difference-equation evaluator in its four realizations. -/

namespace Sys2Proof.Machine

/-- `DERIVE_BQ()` (R113), plain writes. A0 and A1 are "the same F64 value", computed once (log 2). -/
def deriveBq : Calc Bq Unit := do
  let b ← regs
  let gamma ← fdiv (← fmul cTwoPi b.fc) b.sr
  let den ← fadd gamma fTwo
  let a0 ← fdiv gamma den
  let b1 ← fdiv (← fsub gamma fTwo) den
  plain fun b => { b with a0 := a0, a1 := a0, a2 := fZero, b1 := b1, b2 := fZero }

/-- Zeroes Z0..Z3 and makes them valid for FORM (R111, R112). -/
def clearBq : Calc Bq Unit :=
  plain fun b => { b with z0 := fZero, z1 := fZero, z2 := fZero, z3 := fZero, zv := true }

/-- The rule of `RESET.BQ sr` (R111). -/
def ruleResetBq (sr : F64) : Calc Bq (List Word64) := do
  plain fun b => { b with sr := sr }
  clearBq
  plain fun b => { b with init := true }
  deriveBq
  return []

/-- The rule of `CLR.BQ` (R112). -/
def ruleClrBq : Calc Bq (List Word64) := do
  clearBq
  return []

/-- The rule of `SETP.BQ fc` (R114): memoised on `fc != FC`. -/
def ruleSetpBq (fc : F64) : Calc Bq (List Word64) := do
  let b ← regs
  if F64.ne fc b.fc then
    plain fun b => { b with fc := fc }
    if b.init then deriveBq
  return []

/-- The rule of `LDCOEF.BQ a0, a1, a2, b1, b2` (R115). -/
def ruleLdcoefBq (a0 a1 a2 b1 b2 : F64) : Calc Bq (List Word64) := do
  plain fun b => { b with a0 := a0, a1 := a1, a2 := a2, b1 := b1, b2 := b2 }
  return []

/-- The rule of `SETFORM.BQ f` (R116). -/
def ruleSetformBq (f : Form) : Calc Bq (List Word64) := do
  let b ← regs
  if f ≠ b.form then
    plain fun b => { b with form := f, zv := false }
  return []

/-- `BQ_DIRECT(x)` (R118). -/
def bqDirect (x : F64) : Calc Bq F64 := do
  let b ← regs
  let y ← out (← fsub (← fsub (← fadd (← fadd (← fmul b.a0 x) (← fmul b.a1 b.z0)) (← fmul b.a2 b.z1))
    (← fmul b.b1 b.z2)) (← fmul b.b2 b.z3))
  wr regZ1 (← rd regZ0)
  wr regZ0 x
  wr regZ3 (← rd regZ2)
  wr regZ2 y
  return y

/-- `BQ_CANON(x)` (R119). -/
def bqCanon (x : F64) : Calc Bq F64 := do
  let b ← regs
  let w ← fsub (← fsub x (← fmul b.b1 b.z0)) (← fmul b.b2 b.z1)
  let y ← out (← fadd (← fadd (← fmul b.a0 w) (← fmul b.a1 b.z0)) (← fmul b.a2 b.z1))
  wr regZ1 (← rd regZ0)
  wr regZ0 w
  return y

/-- `BQ_TDIRECT(x)` (R120). -/
def bqTransDirect (x : F64) : Calc Bq F64 := do
  let b ← regs
  let w ← fadd x (← rd regZ2)
  let y ← out (← fadd (← fmul b.a0 w) (← rd regZ0))
  wr regZ2 (← fsub (← rd regZ3) (← fmul b.b1 w))
  wr regZ3 (F64.neg (← fmul b.b2 w))
  wr regZ0 (← fadd (← rd regZ1) (← fmul b.a1 w))
  wr regZ1 (← fmul b.a2 w)
  return y

/-- `BQ_TCANON(x)` (R121). -/
def bqTransCanon (x : F64) : Calc Bq F64 := do
  let b ← regs
  let y ← out (← fadd (← fmul b.a0 x) (← rd regZ0))
  wr regZ0 (← fadd (← fsub (← fmul b.a1 x) (← fmul b.b1 y)) (← rd regZ1))
  wr regZ1 (← fsub (← fmul b.a2 x) (← fmul b.b2 y))
  return y

/-- The rule of `PROC.BQ x` after its checks (R117): the realization FORM selects. -/
def ruleProcBq (x : F64) : Calc Bq (List Word64) := do
  let b ← regs
  let y ← match b.form with
    | .direct => bqDirect x
    | .canonical => bqCanon x
    | .transposedDirect => bqTransDirect x
    | .transposedCanonical => bqTransCanon x
  return [bits64 y]

/-- `RESET.BQ sr` (R111). -/
def execResetBq (sr : F64) (s : State) : Host.Outcome State Fault Refusal := .next (s.run slotBq (ruleResetBq sr))

/-- `CLR.BQ` (R112). -/
def execClrBq (s : State) : Host.Outcome State Fault Refusal := .next (s.run slotBq ruleClrBq)

/-- `SETP.BQ fc` (R114). -/
def execSetpBq (fc : F64) (s : State) : Host.Outcome State Fault Refusal := .next (s.run slotBq (ruleSetpBq fc))

/-- `GETP.BQ` (R122). -/
def execGetpBq (s : State) : Host.Outcome State Fault Refusal := .next (s.respond [bits64 s.bq.fc])

/-- `GETS.BQ idx` (R221). -/
def execGetsBq (idx : BitVec 8) (s : State) : Host.Outcome State Fault Refusal := .next (s.readBack s.bq.words idx)

/-- `PROC.BQ x` (R117): INIT is checked first, then ZV (R235, R238). -/
def execProcBq (x : F64) (s : State) : Host.Outcome State Fault Refusal :=
  .next (if !s.bq.init then s.refuse .notInit
    else if !s.bq.zv then s.refuse .stateUndef
    else s.run slotBq (ruleProcBq x))

/-- `SETFORM.BQ f` (R116). -/
def execSetformBq (f : Form) (s : State) : Host.Outcome State Fault Refusal := .next (s.run slotBq (ruleSetformBq f))

/-- `LDCOEF.BQ a0, a1, a2, b1, b2` (R115). -/
def execLdcoefBq (a0 a1 a2 b1 b2 : F64) (s : State) : Host.Outcome State Fault Refusal :=
  .next (s.run slotBq (ruleLdcoefBq a0 a1 a2 b1 b2))

end Sys2Proof.Machine
end

