-- ==== Sys2Proof/Machine/Envelope.lean ====
section
/-! DEFINITION. Unit ENV (43_envelope.md): the ADSR envelope state machine. -/

namespace Sys2Proof.Machine

/-- `wr(CNT, CNT + DLT)` (R175): the counter advance. -/
def advanceCnt : Calc Env Unit := do wr regCnt (← fadd (← rd regCnt) (← rd regDlt))

/-- `ENV_OUT(s)` (R175): the sample of state `st` and the counter advance. Each line is a MAPLIN of R19. -/
def envOut (st : EnvState) : Calc Env F64 := do
  let u ← regs
  match st with
  | .idle => return fZero
  | .attack =>
    let o ← mapLin (← skew05 u.cnt) u.seg cVmax
    advanceCnt
    return o
  | .decay =>
    let o ← mapLin (← skew2 u.cnt) cPeak (← fmul u.sus cPeak)
    advanceCnt
    return o
  | .sustain => fmul u.sus cPeak
  | .release =>
    let o ← mapLin (← skew2 u.cnt) u.seg fZero
    advanceCnt
    return o

/-- `ENTER_ATTACK(start)` (R176). -/
def enterAttack (start : F64) : Calc Env Unit := do
  let u ← regs
  plain fun u => { u with st := .attack }
  wr regDlt (← fdiv fOne (← fmul (← fmul cAtkf u.att) u.sr))
  wr regCnt fZero
  wr regSeg start

/-- `ENTER_DECAY()` (R176). -/
def enterDecay : Calc Env Unit := do
  let u ← regs
  plain fun u => { u with st := .decay }
  wr regDlt (← fdiv fOne (← fmul u.dec u.sr))
  wr regCnt fZero

/-- `ENTER_SUSTAIN()` (R176). -/
def enterSustain : Calc Env Unit := plain fun u => { u with st := .sustain }

/-- `ENTER_RELEASE(start)` (R176). -/
def enterRelease (start : F64) : Calc Env Unit := do
  let u ← regs
  plain fun u => { u with st := .release }
  wr regDlt (← fdiv fOne (← fmul u.rel u.sr))
  wr regCnt fZero
  wr regSeg start

/-- `ENTER_IDLE()` (R176). -/
def enterIdle : Calc Env Unit := plain fun u => { u with st := .idle }

/-- `ENV_NEXT(s, o)` (R177 to R182): at most one transition, the gate before the threshold. -/
def envNext (st : EnvState) (o : F64) : Calc Env Unit := do
  let u ← regs
  match st with
  | .idle => if u.gate then enterAttack fZero
  | .attack =>
    if !u.gate then enterRelease o
    else
      let threshold ← fsub cPeak cEps
      if F64.ge o threshold then enterDecay
  | .decay =>
    if !u.gate then enterRelease o
    else
      let threshold ← fadd (← fmul u.sus cPeak) cEps
      if F64.le o threshold then enterSustain
  | .sustain => if !u.gate then enterRelease o
  | .release =>
    if u.gate then enterAttack o
    else
      let threshold ← fadd fZero cEps
      if F64.le o threshold then enterIdle

/-- The rule of `RESET.ENV sr` (R171). -/
def ruleResetEnv (sr : F64) : Calc Env (List Word64) := do
  plain fun u => { u with
    sr := sr, st := .idle, cnt := fZero, seg := fZero, dlt := fZero, out := fZero, gate := false, init := true }
  return []

/-- The rule of `SETP.ENV att, dec, sus, rel` (R172). -/
def ruleSetpEnv (att dec sus rel : F64) : Calc Env (List Word64) := do
  plain fun u => { u with att := att, dec := dec, sus := sus, rel := rel }
  return []

/-- The rule of `GATE.ENV b` (R173). -/
def ruleGateEnv (b : Bool) : Calc Env (List Word64) := do
  plain fun u => { u with gate := b }
  return []

/-- The rule of `REND.ENV` after its check (R174). DESIGN CHOICE, unsafe (log 18): OUT is written in every state, as
R174's pseudocode has it, so in Sustain it follows SUS; R185(e) says that OUT keeps its last value there. -/
def ruleRendEnv : Calc Env (List Word64) := do
  let st := (← regs).st
  let o ← out (← envOut st)
  wr regOut o
  envNext st o
  return [bits64 o]

/-- `RESET.ENV sr` (R171). -/
def execResetEnv (sr : F64) (s : State) : Host.Outcome State Fault Refusal := .next (s.run slotEnv (ruleResetEnv sr))

/-- `SETP.ENV att, dec, sus, rel` (R172). -/
def execSetpEnv (att dec sus rel : F64) (s : State) : Host.Outcome State Fault Refusal :=
  .next (s.run slotEnv (ruleSetpEnv att dec sus rel))

/-- `GETP.ENV` (R184). -/
def execGetpEnv (s : State) : Host.Outcome State Fault Refusal :=
  .next (s.respond [bits64 s.env.att, bits64 s.env.dec, bits64 s.env.sus, bits64 s.env.rel])

/-- `GETS.ENV idx` (R221). -/
def execGetsEnv (idx : BitVec 8) (s : State) : Host.Outcome State Fault Refusal := .next (s.readBack s.env.words idx)

/-- `REND.ENV` (R174). -/
def execRendEnv (s : State) : Host.Outcome State Fault Refusal := .next (s.runInit slotEnv s.env.init ruleRendEnv)

/-- `GATE.ENV b` (R173). -/
def execGateEnv (b : Bool) (s : State) : Host.Outcome State Fault Refusal := .next (s.run slotEnv (ruleGateEnv b))

end Sys2Proof.Machine
end

