-- ==== Sys2Proof/Machine/Zdf.lean ====
section
/-! DEFINITION. Units ZLP and ZHP (41_zdf_integrator.md): the zero-delay-feedback integrator stage, and the stage steps and
gain formulas the networks share with it. -/

namespace Sys2Proof.Machine

/-- The two kinds of stage (R131, R132). -/
inductive StageKind where
  | lp | hp
  deriving DecidableEq, Repr

/-- `STAGE_LP(G, S, x)` (R131). -/
def stageLp {U : Type} (g : F64) (s : Reg U) (x : F64) : Calc U F64 := do
  let v ← fmul g (← fsub x (← rd s))
  let y := (← fadd v (← rd s)).flush
  wr s (← fadd y v)
  return y

/-- `STAGE_HP(G, S, x)` (R131). -/
def stageHp {U : Type} (g : F64) (s : Reg U) (x : F64) : Calc U F64 := do
  let y := (← fmul g (← fsub x (← rd s))).flush
  let t ← fsub x y
  wr s (← fsub (← fadd t t) (← rd s))
  return y

/-- The stage of a kind (R131). -/
def stage {U : Type} (kind : StageKind) (g : F64) (s : Reg U) (x : F64) : Calc U F64 :=
  match kind with
  | .lp => stageLp g s x
  | .hp => stageHp g s x

/-- The gains a derivation computes (R132). -/
structure Gains where
  gs : F64
  gg : F64
  gr : F64

/-- The gains of `DERIVE_ZDF(kind)` from FC and SR (R132). For the high-pass GG is "the same F64 value as GR",
computed once (log 2). -/
def zdfGains {U : Type} (kind : StageKind) (fc sr : F64) : Calc U Gains := do
  let gs := Config.tan (← fdiv (← fmul cPi fc) sr)
  let den ← fadd fOne gs
  let gr ← fdiv fOne den
  match kind with
  | .lp => return ⟨gs, ← fdiv gs den, gr⟩
  | .hp => return ⟨gs, gr, gr⟩

/-- `DERIVE_ZDF(kind)` on ZLP or ZHP (R132), plain writes. -/
def deriveZdf (kind : StageKind) : Calc Zdf Unit := do
  let u ← regs
  let g ← zdfGains kind u.fc u.sr
  plain fun u => { u with gs := g.gs, gg := g.gg, gr := g.gr }

/-- The rule of `RESET.ZLP sr` and `RESET.ZHP sr` (R133, R134). -/
def ruleResetZdf (kind : StageKind) (sr : F64) : Calc Zdf (List Word64) := do
  plain fun u => { u with sr := sr, s := fZero, init := true }
  deriveZdf kind
  return []

/-- The rule of `SETP.ZLP fc` and `SETP.ZHP fc` (R135, R136). -/
def ruleSetpZdf (kind : StageKind) (fc : F64) : Calc Zdf (List Word64) := do
  plain fun u => { u with fc := fc }
  if (← regs).init then deriveZdf kind
  return []

/-- The rule of `PROC.ZLP x` and `PROC.ZHP x` after its check (R137, R138). -/
def ruleProcZdf (kind : StageKind) (x : F64) : Calc Zdf (List Word64) := do
  let u ← regs
  let y ← stage kind u.gg regS x
  return [bits64 (← out y)]

/-- `RESET.ZLP sr` (R133). -/
def execResetZlp (sr : F64) (s : State) : Host.Outcome State Fault Refusal :=
  .next (s.run slotZlp (ruleResetZdf .lp sr))

/-- `RESET.ZHP sr` (R134). -/
def execResetZhp (sr : F64) (s : State) : Host.Outcome State Fault Refusal :=
  .next (s.run slotZhp (ruleResetZdf .hp sr))

/-- `SETP.ZLP fc` (R135). -/
def execSetpZlp (fc : F64) (s : State) : Host.Outcome State Fault Refusal :=
  .next (s.run slotZlp (ruleSetpZdf .lp fc))

/-- `SETP.ZHP fc` (R136). -/
def execSetpZhp (fc : F64) (s : State) : Host.Outcome State Fault Refusal :=
  .next (s.run slotZhp (ruleSetpZdf .hp fc))

/-- `GETP.ZLP` (R139). -/
def execGetpZlp (s : State) : Host.Outcome State Fault Refusal := .next (s.respond [bits64 s.zlp.fc])

/-- `GETP.ZHP` (R139). -/
def execGetpZhp (s : State) : Host.Outcome State Fault Refusal := .next (s.respond [bits64 s.zhp.fc])

/-- `GETS.ZLP idx` (R221). -/
def execGetsZlp (idx : BitVec 8) (s : State) : Host.Outcome State Fault Refusal := .next (s.readBack s.zlp.words idx)

/-- `GETS.ZHP idx` (R221). -/
def execGetsZhp (idx : BitVec 8) (s : State) : Host.Outcome State Fault Refusal := .next (s.readBack s.zhp.words idx)

/-- `PROC.ZLP x` (R137). -/
def execProcZlp (x : F64) (s : State) : Host.Outcome State Fault Refusal :=
  .next (s.runInit slotZlp s.zlp.init (ruleProcZdf .lp x))

/-- `PROC.ZHP x` (R138). -/
def execProcZhp (x : F64) (s : State) : Host.Outcome State Fault Refusal :=
  .next (s.runInit slotZhp s.zhp.init (ruleProcZdf .hp x))

end Sys2Proof.Machine
end

