-- ==== Sys2Proof/Machine/Networks.lean ====
section
/-! DEFINITION. Units LLP, LHP and SKH (42_feedback_networks.md): the ladder and Sallen-Key network solvers. -/

namespace Sys2Proof.Machine

/-- `DERIVE_LAD(kind)` (R146), plain writes. -/
def deriveLad (kind : StageKind) : Calc Ladder Unit := do
  let u ← regs
  let g ← zdfGains kind u.fc u.sr
  let g2 ← fmul g.gg g.gg
  let g3 ← fmul g2 g.gg
  let g4 ← fmul g3 g.gg
  let k ← fmul cKlad u.res
  plain fun u => { u with gs := g.gs, gg := g.gg, gr := g.gr, g2 := g2, g3 := g3, g4 := g4, k := k }

/-- The rule of `RESET.LLP sr` and `RESET.LHP sr` (R147, R148). -/
def ruleResetLad (kind : StageKind) (sr : F64) : Calc Ladder (List Word64) := do
  plain fun u => { u with sr := sr, s1 := fZero, s2 := fZero, s3 := fZero, s4 := fZero, init := true }
  deriveLad kind
  return []

/-- The rule of `SETP.LLP fc, res` and `SETP.LHP fc, res` (R149, R150). -/
def ruleSetpLad (kind : StageKind) (fc res : F64) : Calc Ladder (List Word64) := do
  plain fun u => { u with fc := fc, res := res }
  if (← regs).init then deriveLad kind
  return []

/-- `sigma` of a ladder: the sum of R152, with its sign flipped in the high-pass ladder (R151, R153). -/
def ladSigma (kind : StageKind) : Calc Ladder F64 := do
  let u ← regs
  let sum ← fmul (← fadd (← fadd (← fadd (← fmul u.g3 u.s1) (← fmul u.g2 u.s2)) (← fmul u.gg u.s3)) u.s4) u.gr
  match kind with
  | .lp => return sum
  | .hp => return sum.neg

/-- The rule of `PROC.LLP x` and `PROC.LHP x` after its check (R152, R153). -/
def ruleProcLad (kind : StageKind) (x : F64) : Calc Ladder (List Word64) := do
  let c ← regs
  let sigma ← ladSigma kind
  let u ← fdiv (← fsub x (← fmul c.k sigma)) (← fadd fOne (← fmul c.k c.g4))
  let y1 ← stage kind c.gg regL1 u
  let y2 ← stage kind c.gg regL2 y1
  let y3 ← stage kind c.gg regL3 y2
  let y4 ← stage kind c.gg regL4 y3
  return [bits64 (← out y4)]

/-- `DERIVE_SKH()` (R160), plain writes. -/
def deriveSkh : Calc Skh Unit := do
  let u ← regs
  let gs := Config.tan (← fdiv (← fmul cPi u.fc) u.sr)
  let gg ← fdiv fOne (← fadd fOne gs)
  let gm ← fsub gg (← fmul gg gg)
  let k ← fmul cKsk u.res
  plain fun u => { u with gs := gs, gg := gg, gm := gm, k := k }

/-- The rule of `RESET.SKH sr` (R158). -/
def ruleResetSkh (sr : F64) : Calc Skh (List Word64) := do
  plain fun u => { u with sr := sr, s1 := fZero, s2 := fZero, init := true }
  deriveSkh
  return []

/-- The rule of `SETP.SKH fc, res` (R159). -/
def ruleSetpSkh (fc res : F64) : Calc Skh (List Word64) := do
  plain fun u => { u with fc := fc, res := res }
  if (← regs).init then deriveSkh
  return []

/-- The rule of `PROC.SKH x` after its check (R161). -/
def ruleProcSkh (x : F64) : Calc Skh (List Word64) := do
  let c ← regs
  let sigma ← fsub (← fmul c.gm c.s1) (← fmul c.gg c.s2)
  let u ← fdiv (← fsub x (← fmul c.k sigma)) (← fsub fOne (← fmul c.k c.gm))
  let us := Config.sat u
  let y1 ← stage .hp c.gg regK1 us
  let y2 ← stage .hp c.gg regK2 y1
  return [bits64 (← out y2)]

/-- `RESET.LLP sr` (R147). -/
def execResetLlp (sr : F64) (s : State) : Host.Outcome State Fault Refusal :=
  .next (s.run slotLlp (ruleResetLad .lp sr))

/-- `RESET.LHP sr` (R148). -/
def execResetLhp (sr : F64) (s : State) : Host.Outcome State Fault Refusal :=
  .next (s.run slotLhp (ruleResetLad .hp sr))

/-- `RESET.SKH sr` (R158). -/
def execResetSkh (sr : F64) (s : State) : Host.Outcome State Fault Refusal :=
  .next (s.run slotSkh (ruleResetSkh sr))

/-- `SETP.LLP fc, res` (R149). -/
def execSetpLlp (fc res : F64) (s : State) : Host.Outcome State Fault Refusal :=
  .next (s.run slotLlp (ruleSetpLad .lp fc res))

/-- `SETP.LHP fc, res` (R150). -/
def execSetpLhp (fc res : F64) (s : State) : Host.Outcome State Fault Refusal :=
  .next (s.run slotLhp (ruleSetpLad .hp fc res))

/-- `SETP.SKH fc, res` (R159). -/
def execSetpSkh (fc res : F64) (s : State) : Host.Outcome State Fault Refusal :=
  .next (s.run slotSkh (ruleSetpSkh fc res))

/-- `GETP.LLP` (R163). -/
def execGetpLlp (s : State) : Host.Outcome State Fault Refusal :=
  .next (s.respond [bits64 s.llp.fc, bits64 s.llp.res])

/-- `GETP.LHP` (R163). -/
def execGetpLhp (s : State) : Host.Outcome State Fault Refusal :=
  .next (s.respond [bits64 s.lhp.fc, bits64 s.lhp.res])

/-- `GETP.SKH` (R163). -/
def execGetpSkh (s : State) : Host.Outcome State Fault Refusal :=
  .next (s.respond [bits64 s.skh.fc, bits64 s.skh.res])

/-- `GETS.LLP idx` (R221). -/
def execGetsLlp (idx : BitVec 8) (s : State) : Host.Outcome State Fault Refusal := .next (s.readBack s.llp.words idx)

/-- `GETS.LHP idx` (R221). -/
def execGetsLhp (idx : BitVec 8) (s : State) : Host.Outcome State Fault Refusal := .next (s.readBack s.lhp.words idx)

/-- `GETS.SKH idx` (R221). -/
def execGetsSkh (idx : BitVec 8) (s : State) : Host.Outcome State Fault Refusal := .next (s.readBack s.skh.words idx)

/-- `PROC.LLP x` (R152). -/
def execProcLlp (x : F64) (s : State) : Host.Outcome State Fault Refusal :=
  .next (s.runInit slotLlp s.llp.init (ruleProcLad .lp x))

/-- `PROC.LHP x` (R153). -/
def execProcLhp (x : F64) (s : State) : Host.Outcome State Fault Refusal :=
  .next (s.runInit slotLhp s.lhp.init (ruleProcLad .hp x))

/-- `PROC.SKH x` (R161). -/
def execProcSkh (x : F64) (s : State) : Host.Outcome State Fault Refusal :=
  .next (s.runInit slotSkh s.skh.init (ruleProcSkh x))

end Sys2Proof.Machine
end

