-- ==== Sys2Proof/Machine/Oscillators.lean ====
section
/-! DEFINITION. Units OSN and OSA (44_oscillators.md): the naive phase accumulator and the anti-aliased oscillator with its
polynomial discontinuity corrector. -/

namespace Sys2Proof.Machine

/-- `if p >= 1.0 then p <- p - 1.0`, the wrap of OSN: one conditional subtraction (R193, R194). -/
def wrapOnce (p : F64) : Calc Osn F64 :=
  if F64.ge p fOne then fsub p fOne else pure p

/-- `INC <- FREQ / SR` (R191, R192). -/
def deriveInc : Calc Osn Unit := do
  let u ← regs
  let inc ← fdiv u.freq u.sr
  plain fun u => { u with inc := inc }

/-- `OSN_SETPHASE()` (R193). -/
def osnSetPhase : Calc Osn Unit := do
  let u ← regs
  wr regPh u.phs
  wr regTph (← wrapOnce (← fadd u.phs fHalf))

/-- The rule of `RESET.OSN sr` (R191). -/
def ruleResetOsn (sr : F64) : Calc Osn (List Word64) := do
  plain fun u => { u with sr := sr }
  deriveInc
  plain fun u => { u with init := true }
  osnSetPhase
  return []

/-- The rule of `SETP.OSN freq, pw, phs` (R192). -/
def ruleSetpOsn (freq pw phs : F64) : Calc Osn (List Word64) := do
  plain fun u => { u with freq := freq, pw := pw, phs := phs }
  if (← regs).init then deriveInc
  return []

/-- The rule of `RETRIG.OSN` after its check (R193). -/
def ruleRetrigOsn : Calc Osn (List Word64) := do
  osnSetPhase
  return []

/-- The rule of `REND.OSN` after its check (R194). -/
def ruleRendOsn : Calc Osn (List Word64) := do
  let u ← regs
  let saw ← uni2bi u.ph
  let ts ← fsub (← fmul fTwo u.tph) fOne
  let tri ← fsub (← fmul fTwo ts.abs) fOne
  let pul := if F64.lt saw fZero then fOne else fNegOne
  wr regPh (← wrapOnce (← fadd u.ph u.inc))
  wr regTph (← wrapOnce (← fadd u.tph u.inc))
  return [bits64 (← out saw), bits64 (← out tri), bits64 (← out pul)]

/-- `DERIVE_DC()` (R205), plain writes. -/
def deriveDc : Calc Osa Unit := do
  let u ← regs
  let asym ← fmul (← fsub u.pw (← fsub fOne u.pw)) Config.dcPer
  let dcp ← fmul Config.kdcPulse asym
  let dct ← fmul Config.kdcTri asym
  plain fun u => { u with dcp := dcp, dct := dct }

/-- The outer coefficients `(c2, c0)` of a corner triple of R201, for a corner of value `v` reached with step `sIn` and
left with step `sOut`; `m` and `n` are R201's. -/
def cornerOuter (v sIn sOut m n : F64) : Calc Osa (F64 × F64) := do
  let c2 ← fdiv (← fsub sOut sIn) (← fmul (← fmul fTwo sIn) sIn)
  let c0 ← fadd (← fsub v (← fdiv (← fmul m m) (← fmul fTwo sIn)))
    (← fdiv (← fmul sOut (← fmul n n)) (← fmul (← fmul fTwo sIn) sIn))
  return (c2, c0)

/-- TOPC (R201): the corner of value +1, reached with A and left with B. -/
def topTriple (a b ha : F64) : Calc Osa Triple := do
  let m ← fadd fOne ha
  let n ← fsub fOne ha
  let (c2, c0) ← cornerOuter fOne a b m n
  return ⟨c2, ← fsub (← fdiv m a) (← fdiv (← fmul b n) (← fmul a a)), c0⟩

/-- BOTC (R201): the corner of value -1, reached with B and left with A. -/
def botTriple (a b hb : F64) : Calc Osa Triple := do
  let m ← fsub fOne hb
  let n ← fadd fOne hb
  let (c2, c0) ← cornerOuter fNegOne b a m n
  return ⟨c2, ← fsub (← fdiv (← fmul a n) (← fmul b b)) (← fdiv m b), c0⟩

/-- `DERIVE_OSA()` (R201), plain writes; HA and HB are no registers. -/
def deriveOsa : Calc Osa Unit := do
  let u ← regs
  let d ← fdiv u.freq u.sr
  let inc2 ← fmul fTwo d
  let sthr ← fsub fOne d
  let rdv ← fdiv fOne d
  let sawc : Triple := ⟨fZero, ← fsub fOne rdv, ← fsub rdv fOne⟩
  let pupc : Triple := ⟨fZero, rdv, rdv.neg⟩
  let e ← fsub (← fmul fTwo u.pw) fOne
  let elo ← fsub e d
  let ehi ← fadd e d
  let pdnc : Triple := ⟨fZero, rdv.neg, ← fmul rdv e⟩
  let a ← fdiv inc2 u.pw
  let b := (← fdiv inc2 (← fsub fOne u.pw)).neg
  let ha ← fmul a fHalf
  let hb ← fmul b fHalf
  let tthr ← fsub fOne ha
  let bthr ← fsub fNegOne hb
  let topc ← topTriple a b ha
  let botc ← botTriple a b hb
  let rba ← fdiv b a
  let rab ← fdiv a b
  plain fun u => { u with
    d := d, inc2 := inc2, sthr := sthr, rd := rdv, sawc := sawc, pupc := pupc, e := e, elo := elo, ehi := ehi,
    pdnc := pdnc, a := a, b := b, tthr := tthr, bthr := bthr, topc := topc, botc := botc, rba := rba, rab := rab }
  deriveDc

/-- `OSA_SETPHASE()` (R204). -/
def osaSetPhase : Calc Osa Unit := do
  let u ← regs
  wr regPs (← fsub (← fmul fTwo u.phs) fOne)
  if F64.lt u.phs u.pw then
    wr regPt (← fadd fNegOne (← fdiv (← fmul fTwo u.phs) u.pw))
    plain fun u => { u with dir := .up }
  else
    wr regPt (← fsub fOne (← fdiv (← fmul fTwo (← fsub u.phs u.pw)) (← fsub fOne u.pw)))
    plain fun u => { u with dir := .down }

/-- The rule of `RESET.OSA sr` (R202). -/
def ruleResetOsa (sr : F64) : Calc Osa (List Word64) := do
  plain fun u => { u with sr := sr, init := true }
  deriveOsa
  osaSetPhase
  return []

/-- The rule of `SETP.OSA freq, pw, phs` (R200): derives only if FREQ or PW changes (log 15). -/
def ruleSetpOsa (freq pw phs : F64) : Calc Osa (List Word64) := do
  let u ← regs
  let chg := F64.ne freq u.freq || F64.ne pw u.pw
  plain fun u => { u with freq := freq, pw := pw, phs := phs }
  if u.init && chg then deriveOsa
  return []

/-- The rule of `RETRIG.OSA` after its check (R203). -/
def ruleRetrigOsa : Calc Osa (List Word64) := do
  osaSetPhase
  return []

/-- `OSA_SAWPULSE()` (R207): the sawtooth and the pulse. -/
def osaSawPulse : Calc Osa (F64 × F64) := do
  let u ← regs
  let p := u.ps
  if F64.gt p u.sthr then
    let saw ← poly2 u.sawc p
    let pul ← poly2 u.pupc p
    wr regPs (← fadd (← fsub p fTwo) u.inc2)
    return (saw, pul)
  else if F64.gt p u.elo && F64.le p u.ehi then
    let pul ← poly2 u.pdnc p
    wr regPs (← fadd p u.inc2)
    return (p, pul)
  else
    wr regPs (← fadd p u.inc2)
    return (p, if F64.lt p u.e then fOne else fNegOne)

/-- `OSA_TRI()` (R208). -/
def osaTri : Calc Osa F64 := do
  let u ← regs
  let p := u.pt
  match u.dir with
  | .up =>
    if F64.gt p u.tthr then
      let tri ← poly2 u.topc p
      let q ← fadd fOne (← fmul u.rba (← fsub p fOne))
      plain fun u => { u with dir := .down }
      wr regPt (← fadd q u.b)
      return tri
    else
      wr regPt (← fadd p u.a)
      return p
  | .down =>
    if F64.lt p u.bthr then
      let tri ← poly2 u.botc p
      let q ← fadd fNegOne (← fmul u.rab (← fadd p fOne))
      plain fun u => { u with dir := .up }
      wr regPt (← fadd q u.a)
      return tri
    else
      wr regPt (← fadd p u.b)
      return p

/-- The rule of `REND.OSA` after its check (R206). -/
def ruleRendOsa : Calc Osa (List Word64) := do
  let u ← regs
  let (saw, pul) ← osaSawPulse
  let tri ← osaTri
  return [bits64 (← out saw), bits64 (← out (← fsub tri u.dct)), bits64 (← out (← fsub pul u.dcp))]

/-- `RESET.OSN sr` (R191). -/
def execResetOsn (sr : F64) (s : State) : Host.Outcome State Fault Refusal := .next (s.run slotOsn (ruleResetOsn sr))

/-- `SETP.OSN freq, pw, phs` (R192). -/
def execSetpOsn (freq pw phs : F64) (s : State) : Host.Outcome State Fault Refusal :=
  .next (s.run slotOsn (ruleSetpOsn freq pw phs))

/-- `GETP.OSN` (R196). -/
def execGetpOsn (s : State) : Host.Outcome State Fault Refusal :=
  .next (s.respond [bits64 s.osn.freq, bits64 s.osn.pw, bits64 s.osn.phs])

/-- `GETS.OSN idx` (R221). -/
def execGetsOsn (idx : BitVec 8) (s : State) : Host.Outcome State Fault Refusal := .next (s.readBack s.osn.words idx)

/-- `REND.OSN` (R194). -/
def execRendOsn (s : State) : Host.Outcome State Fault Refusal := .next (s.runInit slotOsn s.osn.init ruleRendOsn)

/-- `RETRIG.OSN` (R193). -/
def execRetrigOsn (s : State) : Host.Outcome State Fault Refusal := .next (s.runInit slotOsn s.osn.init ruleRetrigOsn)

/-- `RESET.OSA sr` (R202). -/
def execResetOsa (sr : F64) (s : State) : Host.Outcome State Fault Refusal := .next (s.run slotOsa (ruleResetOsa sr))

/-- `SETP.OSA freq, pw, phs` (R200). -/
def execSetpOsa (freq pw phs : F64) (s : State) : Host.Outcome State Fault Refusal :=
  .next (s.run slotOsa (ruleSetpOsa freq pw phs))

/-- `GETP.OSA` (R211). -/
def execGetpOsa (s : State) : Host.Outcome State Fault Refusal :=
  .next (s.respond [bits64 s.osa.freq, bits64 s.osa.pw, bits64 s.osa.phs])

/-- `GETS.OSA idx` (R221). -/
def execGetsOsa (idx : BitVec 8) (s : State) : Host.Outcome State Fault Refusal := .next (s.readBack s.osa.words idx)

/-- `REND.OSA` (R206). -/
def execRendOsa (s : State) : Host.Outcome State Fault Refusal := .next (s.runInit slotOsa s.osa.init ruleRendOsa)

/-- `RETRIG.OSA` (R203). -/
def execRetrigOsa (s : State) : Host.Outcome State Fault Refusal := .next (s.runInit slotOsa s.osa.init ruleRetrigOsa)

end Sys2Proof.Machine
end

