-- ==== Sys2Proof/Machine/System.lean ====
section
/-! DEFINITION. The system command of 45_system.md that belongs to no unit: `RDFLT`. -/

namespace Sys2Proof.Machine

/-- `RDFLT` (R224): FLT zero-extended; reading does not clear it. -/
def execRdflt (s : State) : Host.Outcome State Fault Refusal := .next (s.respond [s.flt.setWidth 64])

end Sys2Proof.Machine
end

