-- ==== Sys2Proof/Machine/Dispatch.lean ====
section
/-! DEFINITION. Every instruction's meaning, by name (30_encoding.md R92). -/

namespace Sys2Proof.Machine

def exec (i : Instr) (s : State) : Host.Outcome State Fault Refusal :=
  match i with
  | .resetBq sr => Sys2Proof.Machine.execResetBq sr s
  | .resetZlp sr => Sys2Proof.Machine.execResetZlp sr s
  | .resetZhp sr => Sys2Proof.Machine.execResetZhp sr s
  | .resetLlp sr => Sys2Proof.Machine.execResetLlp sr s
  | .resetLhp sr => Sys2Proof.Machine.execResetLhp sr s
  | .resetSkh sr => Sys2Proof.Machine.execResetSkh sr s
  | .resetEnv sr => Sys2Proof.Machine.execResetEnv sr s
  | .resetOsn sr => Sys2Proof.Machine.execResetOsn sr s
  | .resetOsa sr => Sys2Proof.Machine.execResetOsa sr s
  | .clrBq => Sys2Proof.Machine.execClrBq s
  | .setpBq fc => Sys2Proof.Machine.execSetpBq fc s
  | .setpZlp fc => Sys2Proof.Machine.execSetpZlp fc s
  | .setpZhp fc => Sys2Proof.Machine.execSetpZhp fc s
  | .setpLlp fc res => Sys2Proof.Machine.execSetpLlp fc res s
  | .setpLhp fc res => Sys2Proof.Machine.execSetpLhp fc res s
  | .setpSkh fc res => Sys2Proof.Machine.execSetpSkh fc res s
  | .setpEnv att dec sus rel => Sys2Proof.Machine.execSetpEnv att dec sus rel s
  | .setpOsn freq pw phs => Sys2Proof.Machine.execSetpOsn freq pw phs s
  | .setpOsa freq pw phs => Sys2Proof.Machine.execSetpOsa freq pw phs s
  | .getpBq => Sys2Proof.Machine.execGetpBq s
  | .getpZlp => Sys2Proof.Machine.execGetpZlp s
  | .getpZhp => Sys2Proof.Machine.execGetpZhp s
  | .getpLlp => Sys2Proof.Machine.execGetpLlp s
  | .getpLhp => Sys2Proof.Machine.execGetpLhp s
  | .getpSkh => Sys2Proof.Machine.execGetpSkh s
  | .getpEnv => Sys2Proof.Machine.execGetpEnv s
  | .getpOsn => Sys2Proof.Machine.execGetpOsn s
  | .getpOsa => Sys2Proof.Machine.execGetpOsa s
  | .getsBq idx => Sys2Proof.Machine.execGetsBq idx s
  | .getsZlp idx => Sys2Proof.Machine.execGetsZlp idx s
  | .getsZhp idx => Sys2Proof.Machine.execGetsZhp idx s
  | .getsLlp idx => Sys2Proof.Machine.execGetsLlp idx s
  | .getsLhp idx => Sys2Proof.Machine.execGetsLhp idx s
  | .getsSkh idx => Sys2Proof.Machine.execGetsSkh idx s
  | .getsEnv idx => Sys2Proof.Machine.execGetsEnv idx s
  | .getsOsn idx => Sys2Proof.Machine.execGetsOsn idx s
  | .getsOsa idx => Sys2Proof.Machine.execGetsOsa idx s
  | .procBq x => Sys2Proof.Machine.execProcBq x s
  | .procZlp x => Sys2Proof.Machine.execProcZlp x s
  | .procZhp x => Sys2Proof.Machine.execProcZhp x s
  | .procLlp x => Sys2Proof.Machine.execProcLlp x s
  | .procLhp x => Sys2Proof.Machine.execProcLhp x s
  | .procSkh x => Sys2Proof.Machine.execProcSkh x s
  | .rendEnv => Sys2Proof.Machine.execRendEnv s
  | .rendOsn => Sys2Proof.Machine.execRendOsn s
  | .rendOsa => Sys2Proof.Machine.execRendOsa s
  | .gateEnv b => Sys2Proof.Machine.execGateEnv b s
  | .retrigOsn => Sys2Proof.Machine.execRetrigOsn s
  | .retrigOsa => Sys2Proof.Machine.execRetrigOsa s
  | .setformBq f => Sys2Proof.Machine.execSetformBq f s
  | .ldcoefBq a0 a1 a2 b1 b2 => Sys2Proof.Machine.execLdcoefBq a0 a1 a2 b1 b2 s
  | .rdflt => Sys2Proof.Machine.execRdflt s

end Sys2Proof.Machine
end

