-- ==== Sys2Proof/Machine/Step.lean ====
section
/-! DEFINITION. One step: the port's next command is accepted, decoded and executed (20_memory.md R75, 60_exceptions.md
R238). -/

namespace Sys2Proof.Machine

/-- One step. With no command pending the block waits (70_reset_and_hazards.md R253; log 6). A frame that is no
instruction is refused ILLEGAL (R93, R233); one the interface cannot present stops the model (log 7). -/
def step (s : State) : Host.Outcome State Fault Refusal :=
  match s.accept with
  | none => .next s
  | some (f, t) =>
    match decode f with
    | .ok i => exec i t
    | .error .misframed => .fault .misframed
    | .error _ => .next (t.refuse .illegal)

/-- `s` with the instruction whose bits are `w` as the one command the host has presented, so that the next step runs
it (R85; log 6). -/
def State.withFetchWord (s : State) (nbits w : Nat) : State := s.present (tableFrame nbits w)

end Sys2Proof.Machine
end

