-- ==== Sys2Proof/Safety.lean ====
section
/-! DEFINITION. What a safe run is, and the invariants of the state, in the terms the statements use. -/

namespace Sys2Proof.Machine

/-- Every pending command is a frame the interface can present (30_encoding.md R73, R85). -/
def State.framed (s : State) : Bool := s.audio.all Frame.framed && s.control.all Frame.framed

/-- The `state`-class registers of all units (10_state.md R33). -/
def State.stateRegs (s : State) : List F64 :=
  [s.bq.z0, s.bq.z1, s.bq.z2, s.bq.z3, s.zlp.s, s.zhp.s,
   s.llp.s1, s.llp.s2, s.llp.s3, s.llp.s4, s.lhp.s1, s.lhp.s2, s.lhp.s3, s.lhp.s4, s.skh.s1, s.skh.s2,
   s.env.cnt, s.env.seg, s.env.dlt, s.env.out, s.osn.ph, s.osn.tph, s.osa.ps, s.osa.pt]

/-- No `state`-class register holds a subnormal (70_reset_and_hazards.md R256). -/
def State.flushed (s : State) : Bool := s.stateRegs.all fun v => !v.isSubnormal

/-- Until NF is set, every `state`-class register is finite (10_state.md R55, 60_exceptions.md R239). -/
def State.finiteUntilNf (s : State) : Bool :=
  s.flt.getLsbD 3 || s.stateRegs.all F64.finite

/-- The INIT flags in unit order (10_state.md R47). -/
def State.init (s : State) : UnitId → Bool
  | .bq => s.bq.init
  | .zlp => s.zlp.init
  | .zhp => s.zhp.init
  | .llp => s.llp.init
  | .lhp => s.lhp.init
  | .skh => s.skh.init
  | .env => s.env.init
  | .osn => s.osn.init
  | .osa => s.osa.init

/-- The unit a command addresses; `RDFLT` belongs to none (30_encoding.md R88). -/
def unitOf : Instr → Option UnitId
  | .resetBq _ | .clrBq | .setpBq _ | .getpBq | .getsBq _ | .procBq _ | .setformBq _ | .ldcoefBq _ _ _ _ _ =>
    some .bq
  | .resetZlp _ | .setpZlp _ | .getpZlp | .getsZlp _ | .procZlp _ => some .zlp
  | .resetZhp _ | .setpZhp _ | .getpZhp | .getsZhp _ | .procZhp _ => some .zhp
  | .resetLlp _ | .setpLlp _ _ | .getpLlp | .getsLlp _ | .procLlp _ => some .llp
  | .resetLhp _ | .setpLhp _ _ | .getpLhp | .getsLhp _ | .procLhp _ => some .lhp
  | .resetSkh _ | .setpSkh _ _ | .getpSkh | .getsSkh _ | .procSkh _ => some .skh
  | .resetEnv _ | .setpEnv _ _ _ _ | .getpEnv | .getsEnv _ | .rendEnv | .gateEnv _ => some .env
  | .resetOsn _ | .setpOsn _ _ _ | .getpOsn | .getsOsn _ | .rendOsn | .retrigOsn => some .osn
  | .resetOsa _ | .setpOsa _ _ _ | .getpOsa | .getsOsa _ | .rendOsa | .retrigOsa => some .osa
  | .rdflt => none

/-- The unit a `RESET` addresses. -/
def resetOf : Instr → Option UnitId
  | .resetBq _ => some .bq
  | .resetZlp _ => some .zlp
  | .resetZhp _ => some .zhp
  | .resetLlp _ => some .llp
  | .resetLhp _ => some .lhp
  | .resetSkh _ => some .skh
  | .resetEnv _ => some .env
  | .resetOsn _ => some .osn
  | .resetOsa _ => some .osa
  | .clrBq
  | .setpBq _ | .setpZlp _ | .setpZhp _ | .setpLlp _ _ | .setpLhp _ _ | .setpSkh _ _ | .setpEnv _ _ _ _
  | .setpOsn _ _ _ | .setpOsa _ _ _
  | .getpBq | .getpZlp | .getpZhp | .getpLlp | .getpLhp | .getpSkh | .getpEnv | .getpOsn | .getpOsa
  | .getsBq _ | .getsZlp _ | .getsZhp _ | .getsLlp _ | .getsLhp _ | .getsSkh _ | .getsEnv _ | .getsOsn _
  | .getsOsa _
  | .procBq _ | .procZlp _ | .procZhp _ | .procLlp _ | .procLhp _ | .procSkh _
  | .rendEnv | .rendOsn | .rendOsa | .gateEnv _ | .retrigOsn | .retrigOsa
  | .setformBq _ | .ldcoefBq _ _ _ _ _ | .rdflt => none

/-- The audio-rate commands, which return samples (00_scope.md, glossary: `PROC.*` and `REND.*`). -/
def audioRate : Instr → Bool
  | .procBq _ | .procZlp _ | .procZhp _ | .procLlp _ | .procLhp _ | .procSkh _
  | .rendEnv | .rendOsn | .rendOsa => true
  | .resetBq _ | .resetZlp _ | .resetZhp _ | .resetLlp _ | .resetLhp _ | .resetSkh _ | .resetEnv _ | .resetOsn _
  | .resetOsa _ | .clrBq
  | .setpBq _ | .setpZlp _ | .setpZhp _ | .setpLlp _ _ | .setpLhp _ _ | .setpSkh _ _ | .setpEnv _ _ _ _
  | .setpOsn _ _ _ | .setpOsa _ _ _
  | .getpBq | .getpZlp | .getpZhp | .getpLlp | .getpLhp | .getpSkh | .getpEnv | .getpOsn | .getpOsa
  | .getsBq _ | .getsZlp _ | .getsZhp _ | .getsLlp _ | .getsLhp _ | .getsSkh _ | .getsEnv _ | .getsOsn _
  | .getsOsa _ | .gateEnv _ | .retrigOsn | .retrigOsa | .setformBq _ | .ldcoefBq _ _ _ _ _ | .rdflt => false

/-- Every value of the family is a NaN. A statement takes the NaNs its operations may return from such a family, so
that it says the same of every draw (00_scope.md R10). -/
def AllNaN (n : Nat → F64) : Prop := ∀ k, (n k).isNaN = true

/-- The FLT bits set by storing or returning the given values: NF if one of them is not finite
(60_exceptions.md R239). -/
def nfAny (vs : List F64) : BitVec 4 := if vs.all F64.finite then 0 else 0b1000

/-- A unit that no `RESET` has reached holds `+0.0` in SR, in every state register and, but for BQ, whose coefficients
`LDCOEF.BQ` may load, in every coefficient register; ENV is Idle and OSA's triangle rises (10_state.md R53). -/
def State.untouched (s : State) : Bool :=
  (s.bq.init || decide ([s.bq.sr, s.bq.z0, s.bq.z1, s.bq.z2, s.bq.z3] = List.replicate 5 pz)) &&
  (s.zlp.init || decide (s.zlp = { zdfReset with fc := s.zlp.fc })) &&
  (s.zhp.init || decide (s.zhp = { zdfReset with fc := s.zhp.fc })) &&
  (s.llp.init || decide (s.llp = { ladderReset with fc := s.llp.fc, res := s.llp.res })) &&
  (s.lhp.init || decide (s.lhp = { ladderReset with fc := s.lhp.fc, res := s.lhp.res })) &&
  (s.skh.init || decide (s.skh = { skhReset with fc := s.skh.fc, res := s.skh.res })) &&
  (s.env.init || decide (s.env = { envReset with
    att := s.env.att, dec := s.env.dec, sus := s.env.sus, rel := s.env.rel, gate := s.env.gate })) &&
  (s.osn.init || decide (s.osn = { osnReset with freq := s.osn.freq, pw := s.osn.pw, phs := s.osn.phs })) &&
  (s.osa.init || decide (s.osa = { osaReset with freq := s.osa.freq, pw := s.osa.pw, phs := s.osa.phs }))

/-- The gain registers are the function of FC and SR that 41_zdf_integrator.md R132 gives for a low-pass stage. -/
def LpGains (fc sr gs gg gr : F64) : Prop :=
  ∃ n, AllNaN n ∧ gs = Config.tan (F64.div (n 1) (F64.mul (n 0) cPi fc) sr) ∧
    gr = F64.div (n 3) fOne (F64.add (n 2) fOne gs) ∧ gg = F64.div (n 4) gs (F64.add (n 2) fOne gs)

/-- The gain registers are the function of FC and SR that 41_zdf_integrator.md R132 gives for a high-pass stage. -/
def HpGains (fc sr gs gg gr : F64) : Prop :=
  ∃ n, AllNaN n ∧ gs = Config.tan (F64.div (n 1) (F64.mul (n 0) cPi fc) sr) ∧
    gr = F64.div (n 3) fOne (F64.add (n 2) fOne gs) ∧ gg = gr

/-- A ladder's loop registers are the function of GG and RES that 42_feedback_networks.md R146 gives. -/
def LadderLoop (u : Ladder) : Prop :=
  ∃ n, AllNaN n ∧ u.g2 = F64.mul (n 0) u.gg u.gg ∧ u.g3 = F64.mul (n 1) u.g2 u.gg ∧
    u.g4 = F64.mul (n 2) u.g3 u.gg ∧ u.k = F64.mul (n 3) cKlad u.res

/-- SKH's coefficient registers are the function of FC, RES and SR that 42_feedback_networks.md R160 gives. -/
def SkhCoefs (u : Skh) : Prop :=
  ∃ n, AllNaN n ∧ u.gs = Config.tan (F64.div (n 1) (F64.mul (n 0) cPi u.fc) u.sr) ∧
    u.gg = F64.div (n 3) fOne (F64.add (n 2) fOne u.gs) ∧
    u.gm = F64.sub (n 5) u.gg (F64.mul (n 4) u.gg u.gg) ∧ u.k = F64.mul (n 6) cKsk u.res

/-- The memoized coefficients equal the function of the current parameters and SR in every initialised unit but BQ,
whose cache `LDCOEF.BQ` can overwrite, and OSA, whose derivation may be skipped for a change between zeros
(10_state.md R51; log 15). -/
def State.cached (s : State) : Prop :=
  (s.zlp.init = true → LpGains s.zlp.fc s.zlp.sr s.zlp.gs s.zlp.gg s.zlp.gr) ∧
  (s.zhp.init = true → HpGains s.zhp.fc s.zhp.sr s.zhp.gs s.zhp.gg s.zhp.gr) ∧
  (s.llp.init = true → LpGains s.llp.fc s.llp.sr s.llp.gs s.llp.gg s.llp.gr ∧ LadderLoop s.llp) ∧
  (s.lhp.init = true → HpGains s.lhp.fc s.lhp.sr s.lhp.gs s.lhp.gg s.lhp.gr ∧ LadderLoop s.lhp) ∧
  (s.skh.init = true → SkhCoefs s.skh) ∧
  (s.osn.init = true → ∃ nan, F64.isNaN nan = true ∧ s.osn.inc = F64.div nan s.osn.freq s.osn.sr)

/-- `r` is the F64 nearest the real number `x`, ties to the even fraction; an infinity from the midpoint between the
largest F64 and 2^1024 on (00_scope.md R8; log 17). The sign of a zero result is not said here. -/
def NearestEven (r : F64) (x : ℝ) : Prop :=
  if (2 ^ 54 - 1) * 2 ^ 970 ≤ |x| then r = F64.inf (decide (x < 0))
  else r.finite = true ∧
    (∀ c : F64, c.finite = true → |(r.val : ℝ) / 2 ^ 1074 - x| ≤ |(c.val : ℝ) / 2 ^ 1074 - x|) ∧
    (∀ c : F64, c.finite = true → c.val ≠ r.val →
      |(c.val : ℝ) / 2 ^ 1074 - x| = |(r.val : ℝ) / 2 ^ 1074 - x| → r.fracField % 2 = 0) ∧
    (0 < x → r.sign = false) ∧ (x < 0 → r.sign = true)

end Sys2Proof.Machine
end

