-- ==== Sys2Proof/Certificates/Slice0/Obligations.lean ====
section
/-! DEFINITION. The statements about the model, for the provers. A statement takes the NaNs its operations may return from a
family `n` of which it knows only that each member is a NaN (00_scope.md R10), and the unit's NaN draw counter `drawn` from
nothing (log 1): so none rests on the model's numbering of draws. Everything a next state does not name is unchanged. -/

section
open Sys2Proof Sys2Proof.Machine

/-- Words written out from the encoding tables, each with its operand words, decode to the commands the tables give
(R86, R88, R92). -/
def Obligations.SpecWordsDecode : Prop :=
  decode ⟨0x01000000, [0x40E7700000000000]⟩ = .ok (.resetBq (f64 0x40E7700000000000)) ∧
  decode ⟨0x02000000, []⟩ = .ok .clrBq ∧
  decode ⟨0x03600000, [1, 2, 3, 4]⟩ = .ok (.setpEnv (f64 1) (f64 2) (f64 3) (f64 4)) ∧
  decode ⟨0x04700000, []⟩ = .ok .getpOsn ∧
  decode ⟨0x05802500, []⟩ = .ok (.getsOsa 37) ∧
  decode ⟨0x06300000, [7]⟩ = .ok (.procLlp (f64 7)) ∧
  decode ⟨0x07800000, []⟩ = .ok .rendOsa ∧
  decode ⟨0x08610000, []⟩ = .ok (.gateEnv true) ∧
  decode ⟨0x09700000, []⟩ = .ok .retrigOsn ∧
  decode ⟨0x0A020000, []⟩ = .ok (.setformBq .transposedDirect) ∧
  decode ⟨0x0B000000, [1, 2, 3, 4, 5]⟩ = .ok (.ldcoefBq (f64 1) (f64 2) (f64 3) (f64 4) (f64 5)) ∧
  decode ⟨0x0C000000, []⟩ = .ok .rdflt

/-- Decoding the encoding of a well-formed instruction gives the instruction back, whatever its operands (R86, R90,
R92, R93). -/
def Obligations.EncodedInstructionDecodesBack : Prop :=
  ∀ i : Instr, i.wf = true → decode (encode i) = .ok i

/-- A frame that decodes is the encoding of the well-formed instruction it decodes to: no instruction has a second
encoding (R92, R93, R98). -/
def Obligations.DecodedFrameIsTheEncoding : Prop :=
  ∀ (f : Frame) (i : Instr), decode f = .ok i → encode i = f ∧ i.wf = true

/-- The command words the decoder accepts are those of the decode algorithm of R93, written out in numbers: `zero` is
0, (opc, unit) is a row of R92, and `sub` and `idx` are in the row's range. -/
def Obligations.AcceptedCommandWords : Prop :=
  ∀ cw : Word32, (∃ ops i, decode ⟨cw, ops⟩ = .ok i) ↔
    (let opc := cw.toNat / 2 ^ 24
     let unit := cw.toNat / 2 ^ 20 % 16
     let sub := cw.toNat / 2 ^ 16 % 16
     let idx := cw.toNat / 2 ^ 8 % 256
     cw.toNat % 256 = 0 ∧
      (((opc = 1 ∨ opc = 3 ∨ opc = 4) ∧ unit ≤ 8 ∧ sub = 0 ∧ idx = 0) ∨
       ((opc = 2 ∨ opc = 0x0B ∨ opc = 0x0C) ∧ unit = 0 ∧ sub = 0 ∧ idx = 0) ∨
       (opc = 5 ∧ sub = 0 ∧
        ∃ last, [13, 6, 6, 14, 14, 9, 11, 7, 37][unit]? = some last ∧ idx ≤ last) ∨
       (opc = 6 ∧ unit ≤ 5 ∧ sub = 0 ∧ idx = 0) ∨
       (opc = 7 ∧ 6 ≤ unit ∧ unit ≤ 8 ∧ sub = 0 ∧ idx = 0) ∨
       (opc = 8 ∧ unit = 6 ∧ sub ≤ 1 ∧ idx = 0) ∨
       (opc = 9 ∧ (unit = 7 ∨ unit = 8) ∧ sub = 0 ∧ idx = 0) ∨
       (opc = 0x0A ∧ unit = 0 ∧ sub ≤ 3 ∧ idx = 0)))

/-- A command word that no well-formed instruction has is illegal: it consumes no operand words, sets FLT.ILL, answers
`(ILLEGAL, no data)` and changes nothing else (R98, R233). -/
def Obligations.IllegalWordSetsIllOnly : Prop :=
  ∀ (cw : Word32) (s : State), (¬∃ i : Instr, i.wf = true ∧ (encode i).cw = cw) →
    step (s.present ⟨cw, []⟩) = .next { s with
      audio := [], control := [], flt := s.flt ||| 0b0001, responses := ⟨.illegal, []⟩ :: s.responses }

/-- When the port gives a frame that decodes to `i`, the step is `exec i` on the state without that frame (R75, R238).
The queues are the model's own (log 5, log 6). -/
def Obligations.StepRunsTheDecodedInstruction : Prop :=
  ∀ (s t : State) (f : Frame) (i : Instr), s.accept = some (f, t) → decode f = .ok i → step s = exec i t

/-- The port takes the oldest pending command of one of the two host contexts and keeps each context's own order
(R76); with none pending the block waits. The queues and the waiting step are the model's own (log 5, log 6). -/
def Obligations.PortMergesTheTwoContexts : Prop :=
  (∀ s : State, s.audio = [] → s.control = [] → step s = .next s) ∧
  (∀ s : State, s.audio ≠ [] ∨ s.control ≠ [] → ∃ f t, s.accept = some (f, t) ∧
    (s.audio = f :: t.audio ∧ t.control = s.control ∨ s.control = f :: t.control ∧ t.audio = s.audio) ∧
    t = { s with audio := t.audio, control := t.control, merges := t.merges })

/-- The header of a response: STATUS in bits 3:0 with the codes 0 to 3, NDATA in bits 7:4, zeros above (R91). -/
def Obligations.ResponseHeaderLayout : Prop :=
  ∀ r : Response, r.data.length ≤ 4 →
    r.header.toNat = r.data.length * 16 + (match r.status with
      | .ok => 0
      | .illegal => 1
      | .notInit => 2
      | .stateUndef => 3)

/-- Every command gives exactly one response; a refused one carries no data, sets its own FLT bit and changes nothing
else (R85, R91, R232, R243). -/
def Obligations.OneResponseAndRefusalsChangeOnlyFlt : Prop :=
  ∀ (i : Instr) (s t : State), exec i s = .next t → ∃ r : Response,
    t.responses = r :: s.responses ∧ r.data.length ≤ 4 ∧
    (r.status ≠ .ok → r.data = [] ∧ t = { s with
      flt := s.flt ||| (match r.status with
        | .ok => 0b0000
        | .illegal => 0b0001
        | .notInit => 0b0010
        | .stateUndef => 0b0100)
      responses := t.responses })

/-- The constants of R18 are the F64 values nearest the decimals given there. -/
def Obligations.ConstantsAreTheNearestValues : Prop :=
  cPeak = F64.round false (8 * 2 ^ 1074) 1 ∧ cVmax = F64.round false (12 * 2 ^ 1074) 1 ∧
  cEps = F64.round false (2 ^ 1074) (10 ^ 5) ∧ cAtkf = F64.round false (15 * 2 ^ 1074) 10 ∧
  cPi = F64.round false (3141592653589793 * 2 ^ 1074) (10 ^ 15) ∧
  cTwoPi = F64.round false (6283185307179586 * 2 ^ 1074) (10 ^ 15) ∧
  cKlad = F64.round false (4 * 2 ^ 1074) 1 ∧ cKsk = F64.round false (2 * 2 ^ 1074) 1 ∧
  cPeak.bits = 0x4020000000000000 ∧ cVmax.bits = 0x4028000000000000 ∧ cEps.bits = 0x3EE4F8B588E368F1 ∧
  cAtkf.bits = 0x3FF8000000000000 ∧ cPi.bits = 0x400921FB54442D18 ∧ cTwoPi.bits = 0x401921FB54442D18 ∧
  cKlad.bits = 0x4010000000000000 ∧ cKsk.bits = 0x4000000000000000

/-- The power-on value of every register (R250). The empty queues and response list are the model's own (log 9) and
not part of the statement. -/
def Obligations.PowerOnState : Prop :=
  let r := State.reset
  r.bq = ⟨f64 0, f64 0x4059000000000000, f64 0, f64 0, f64 0, f64 0, f64 0, f64 0, f64 0, f64 0, f64 0,
    .transposedCanonical, false, true⟩ ∧
  r.zlp = ⟨f64 0, f64 0x4059000000000000, f64 0, f64 0, f64 0, f64 0, false⟩ ∧
  r.zhp = ⟨f64 0, f64 0x4059000000000000, f64 0, f64 0, f64 0, f64 0, false⟩ ∧
  r.llp = ⟨f64 0, f64 0x4059000000000000, f64 0, f64 0, f64 0, f64 0, f64 0, f64 0, f64 0, f64 0, f64 0, f64 0, f64 0,
    f64 0, false⟩ ∧
  r.lhp = ⟨f64 0, f64 0x4059000000000000, f64 0, f64 0, f64 0, f64 0, f64 0, f64 0, f64 0, f64 0, f64 0, f64 0, f64 0,
    f64 0, false⟩ ∧
  r.skh = ⟨f64 0, f64 0x4059000000000000, f64 0, f64 0, f64 0, f64 0, f64 0, f64 0, f64 0, false⟩ ∧
  r.env = ⟨f64 0, f64 0x3FD0000000000000, f64 0x3FE0000000000000, f64 0x3FD999999999999A, f64 0x3FF8000000000000,
    f64 0, f64 0, f64 0, f64 0, .idle, false, false⟩ ∧
  r.osn = ⟨f64 0, f64 0x407B800000000000, f64 0x3FE0000000000000, f64 0, f64 0, f64 0, f64 0, false⟩ ∧
  r.osa.words = [0, 0x407B800000000000, 0x3FE0000000000000] ++ List.replicate 35 0 ∧
  r.flt = 0

/-- `RESET.BQ sr` stores SR, zeroes the state, validates it, sets INIT and derives the coefficients from the stored FC
(R111, R113). -/
def Obligations.ResetBqClearsAndDerives : Prop :=
  ∀ (sr : F64) (s : State),
    ∃ (n : Nat → F64) (drawn : Nat), AllNaN n ∧
      let gamma := F64.div (n 1) (F64.mul (n 0) cTwoPi s.bq.fc) sr
      let den := F64.add (n 2) gamma fTwo
      let a0 := F64.div (n 3) gamma den
      let b1 := F64.div (n 5) (F64.sub (n 4) gamma fTwo) den
      exec (.resetBq sr) s = .next { s with
        bq := { s.bq with
            sr := sr, a0 := a0, a1 := a0, a2 := fZero, b1 := b1, b2 := fZero, z0 := fZero, z1 := fZero, z2 := fZero
            z3 := fZero, init := true, zv := true }
        draws := s.draws.set .bq drawn, responses := ⟨.ok, []⟩ :: s.responses }

/-- `CLR.BQ`, `LDCOEF.BQ` and `SETFORM.BQ` (R112, R115, R116): accepted whatever INIT is; each changes only what its
rule writes. -/
def Obligations.BqClearLoadAndSetform : Prop :=
  ∀ (a0 a1 a2 b1 b2 : F64) (f : Form) (s : State),
    exec .clrBq s = .next { s with
      bq := { s.bq with z0 := fZero, z1 := fZero, z2 := fZero, z3 := fZero, zv := true }
      responses := ⟨.ok, []⟩ :: s.responses } ∧
    exec (.ldcoefBq a0 a1 a2 b1 b2) s = .next { s with
      bq := { s.bq with a0 := a0, a1 := a1, a2 := a2, b1 := b1, b2 := b2 }, responses := ⟨.ok, []⟩ :: s.responses } ∧
    exec (.setformBq f) s = .next { s with
      bq := (if f = s.bq.form then s.bq else { s.bq with form := f, zv := false })
      responses := ⟨.ok, []⟩ :: s.responses }

/-- `SETP.BQ fc` (R114): nothing with `fc == FC`; otherwise FC is stored and, with INIT = 1, the coefficients are
derived (R113). -/
def Obligations.SetpBqIsMemoised : Prop :=
  ∀ (fc : F64) (s : State),
    (F64.eq fc s.bq.fc = true → exec (.setpBq fc) s = .next { s with responses := ⟨.ok, []⟩ :: s.responses }) ∧
    (F64.eq fc s.bq.fc = false → s.bq.init = false →
      exec (.setpBq fc) s = .next { s with bq := { s.bq with fc := fc }, responses := ⟨.ok, []⟩ :: s.responses }) ∧
    (F64.eq fc s.bq.fc = false → s.bq.init = true →
      ∃ (n : Nat → F64) (drawn : Nat), AllNaN n ∧
        let gamma := F64.div (n 1) (F64.mul (n 0) cTwoPi fc) s.bq.sr
        let den := F64.add (n 2) gamma fTwo
        let a0 := F64.div (n 3) gamma den
        let b1 := F64.div (n 5) (F64.sub (n 4) gamma fTwo) den
        exec (.setpBq fc) s = .next { s with
          bq := { s.bq with fc := fc, a0 := a0, a1 := a0, a2 := fZero, b1 := b1, b2 := fZero }
          draws := s.draws.set .bq drawn, responses := ⟨.ok, []⟩ :: s.responses })

/-- `PROC.BQ x` in the direct form (R117, R118). -/
def Obligations.ProcBqDirectForm : Prop :=
  ∀ (x : F64) (s : State), s.bq.init = true → s.bq.zv = true → s.bq.form = .direct →
    ∃ (n : Nat → F64) (drawn : Nat), AllNaN n ∧
      let y :=
        (F64.sub (n 8) (F64.sub (n 6) (F64.add (n 4) (F64.add (n 2) (F64.mul (n 0) s.bq.a0 x) (F64.mul (n 1) s.bq.a1
           s.bq.z0)) (F64.mul (n 3) s.bq.a2 s.bq.z1)) (F64.mul (n 5) s.bq.b1 s.bq.z2)) (F64.mul (n 7) s.bq.b2
             s.bq.z3)).flush
      exec (.procBq x) s = .next { s with
        bq := { s.bq with z1 := s.bq.z0.flush, z0 := x.flush, z3 := s.bq.z2.flush, z2 := y.flush }
        flt := s.flt ||| nfAny [y, s.bq.z0, x, s.bq.z2, y], draws := s.draws.set .bq drawn
        responses := ⟨.ok, [bits64 y]⟩ :: s.responses }

/-- `PROC.BQ x` in the canonical form (R117, R119). -/
def Obligations.ProcBqCanonicalForm : Prop :=
  ∀ (x : F64) (s : State), s.bq.init = true → s.bq.zv = true → s.bq.form = .canonical →
    ∃ (n : Nat → F64) (drawn : Nat), AllNaN n ∧
      let w := F64.sub (n 3) (F64.sub (n 1) x (F64.mul (n 0) s.bq.b1 s.bq.z0)) (F64.mul (n 2) s.bq.b2 s.bq.z1)
      let y :=
        (F64.add (n 8) (F64.add (n 6) (F64.mul (n 4) s.bq.a0 w) (F64.mul (n 5) s.bq.a1 s.bq.z0)) (F64.mul (n 7)
           s.bq.a2 s.bq.z1)).flush
      exec (.procBq x) s = .next { s with
        bq := { s.bq with z1 := s.bq.z0.flush, z0 := w.flush }, flt := s.flt ||| nfAny [y, s.bq.z0, w]
        draws := s.draws.set .bq drawn, responses := ⟨.ok, [bits64 y]⟩ :: s.responses }

/-- `PROC.BQ x` in the transposed-direct form (R117, R120). -/
def Obligations.ProcBqTransposedDirectForm : Prop :=
  ∀ (x : F64) (s : State), s.bq.init = true → s.bq.zv = true → s.bq.form = .transposedDirect →
    ∃ (n : Nat → F64) (drawn : Nat), AllNaN n ∧
      let w := F64.add (n 0) x s.bq.z2
      let y := (F64.add (n 2) (F64.mul (n 1) s.bq.a0 w) s.bq.z0).flush
      let z2 := (F64.sub (n 4) s.bq.z3 (F64.mul (n 3) s.bq.b1 w)).flush
      let z3 := ((F64.mul (n 5) s.bq.b2 w).neg).flush
      let z0 := (F64.add (n 7) s.bq.z1 (F64.mul (n 6) s.bq.a1 w)).flush
      let z1 := (F64.mul (n 8) s.bq.a2 w).flush
      exec (.procBq x) s = .next { s with
        bq := { s.bq with z2 := z2, z3 := z3, z0 := z0, z1 := z1 }, flt := s.flt ||| nfAny [y, z2, z3, z0, z1]
        draws := s.draws.set .bq drawn, responses := ⟨.ok, [bits64 y]⟩ :: s.responses }

/-- `PROC.BQ x` in the transposed-canonical form (R117, R121). -/
def Obligations.ProcBqTransposedCanonicalForm : Prop :=
  ∀ (x : F64) (s : State), s.bq.init = true → s.bq.zv = true → s.bq.form = .transposedCanonical →
    ∃ (n : Nat → F64) (drawn : Nat), AllNaN n ∧
      let y := (F64.add (n 1) (F64.mul (n 0) s.bq.a0 x) s.bq.z0).flush
      let z0 := (F64.add (n 5) (F64.sub (n 4) (F64.mul (n 2) s.bq.a1 x) (F64.mul (n 3) s.bq.b1 y)) s.bq.z1).flush
      let z1 := (F64.sub (n 8) (F64.mul (n 6) s.bq.a2 x) (F64.mul (n 7) s.bq.b2 y)).flush
      exec (.procBq x) s = .next { s with
        bq := { s.bq with z0 := z0, z1 := z1 }, flt := s.flt ||| nfAny [y, z0, z1], draws := s.draws.set .bq drawn
        responses := ⟨.ok, [bits64 y]⟩ :: s.responses }

/-- The checks after decode (R234, R235, R238): INIT of the addressed unit for `PROC`, `REND` and `RETRIG`, then ZV
for `PROC.BQ`. -/
def Obligations.AudioCommandsNeedResetAndValidState : Prop :=
  ∀ (x : F64) (s : State),
    (s.bq.init = false → exec (.procBq x) s = .next { s with
       flt := s.flt ||| 0b0010, responses := ⟨.notInit, []⟩ :: s.responses }) ∧
    (s.zlp.init = false → exec (.procZlp x) s = .next { s with
       flt := s.flt ||| 0b0010, responses := ⟨.notInit, []⟩ :: s.responses }) ∧
    (s.zhp.init = false → exec (.procZhp x) s = .next { s with
       flt := s.flt ||| 0b0010, responses := ⟨.notInit, []⟩ :: s.responses }) ∧
    (s.llp.init = false → exec (.procLlp x) s = .next { s with
       flt := s.flt ||| 0b0010, responses := ⟨.notInit, []⟩ :: s.responses }) ∧
    (s.lhp.init = false → exec (.procLhp x) s = .next { s with
       flt := s.flt ||| 0b0010, responses := ⟨.notInit, []⟩ :: s.responses }) ∧
    (s.skh.init = false → exec (.procSkh x) s = .next { s with
       flt := s.flt ||| 0b0010, responses := ⟨.notInit, []⟩ :: s.responses }) ∧
    (s.env.init = false → exec .rendEnv s = .next { s with
       flt := s.flt ||| 0b0010, responses := ⟨.notInit, []⟩ :: s.responses }) ∧
    (s.osn.init = false → exec .rendOsn s = .next { s with
       flt := s.flt ||| 0b0010, responses := ⟨.notInit, []⟩ :: s.responses }) ∧
    (s.osa.init = false → exec .rendOsa s = .next { s with
       flt := s.flt ||| 0b0010, responses := ⟨.notInit, []⟩ :: s.responses }) ∧
    (s.osn.init = false → exec .retrigOsn s = .next { s with
       flt := s.flt ||| 0b0010, responses := ⟨.notInit, []⟩ :: s.responses }) ∧
    (s.osa.init = false → exec .retrigOsa s = .next { s with
       flt := s.flt ||| 0b0010, responses := ⟨.notInit, []⟩ :: s.responses }) ∧
    (s.bq.init = true → s.bq.zv = false → exec (.procBq x) s = .next { s with
       flt := s.flt ||| 0b0100, responses := ⟨.stateUndef, []⟩ :: s.responses })

/-- `GETP` returns the parameter record in `SETP`'s operand order (R122, R139, R163, R184, R196, R211) and `RDFLT` FLT
zero-extended (R224); both need no INIT and change nothing. -/
def Obligations.ParameterAndFaultReadback : Prop :=
  ∀ s : State,
    exec .getpBq s = .next { s with responses := ⟨.ok, [bits64 s.bq.fc]⟩ :: s.responses } ∧
    exec .getpZlp s = .next { s with responses := ⟨.ok, [bits64 s.zlp.fc]⟩ :: s.responses } ∧
    exec .getpZhp s = .next { s with responses := ⟨.ok, [bits64 s.zhp.fc]⟩ :: s.responses } ∧
    exec .getpLlp s = .next { s with responses := ⟨.ok, [bits64 s.llp.fc, bits64 s.llp.res]⟩ :: s.responses } ∧
    exec .getpLhp s = .next { s with responses := ⟨.ok, [bits64 s.lhp.fc, bits64 s.lhp.res]⟩ :: s.responses } ∧
    exec .getpSkh s = .next { s with responses := ⟨.ok, [bits64 s.skh.fc, bits64 s.skh.res]⟩ :: s.responses } ∧
    exec .getpEnv s = .next { s with
      responses := ⟨.ok, [bits64 s.env.att, bits64 s.env.dec, bits64 s.env.sus, bits64 s.env.rel]⟩ :: s.responses } ∧
    exec .getpOsn s = .next { s with
      responses := ⟨.ok, [bits64 s.osn.freq, bits64 s.osn.pw, bits64 s.osn.phs]⟩ :: s.responses } ∧
    exec .getpOsa s = .next { s with
      responses := ⟨.ok, [bits64 s.osa.freq, bits64 s.osa.pw, bits64 s.osa.phs]⟩ :: s.responses } ∧
    ∃ w : Word64, w.toNat = s.flt.toNat ∧
      exec .rdflt s = .next { s with responses := ⟨.ok, [w]⟩ :: s.responses }

/-- `GETS` of BQ, ZLP, ZHP, LLP, LHP and SKH (R221): the register at the index, in the order of the register tables;
small fields zero-extended by their code numbers. An index past the last register is no instruction; that `exec`
refuses it ILLEGAL is the model's reading of R93 (log 11). -/
def Obligations.RegisterReadbackOfTheFilters : Prop :=
  ∀ (idx : BitVec 8) (s : State),
    (let form : Word64 :=
       match s.bq.form with | .direct => 0 | .canonical => 1 | .transposedDirect => 2 | .transposedCanonical => 3
     let words : List Word64 :=
       [bits64 s.bq.sr, bits64 s.bq.fc, bits64 s.bq.a0, bits64 s.bq.a1, bits64 s.bq.a2, bits64 s.bq.b1,
         bits64 s.bq.b2, bits64 s.bq.z0, bits64 s.bq.z1, bits64 s.bq.z2, bits64 s.bq.z3, form,
         (if s.bq.init then 1 else 0), (if s.bq.zv then 1 else 0)]
     (∀ h : idx.toNat < words.length, exec (.getsBq idx) s = .next { s with
        responses := ⟨.ok, [words[idx.toNat]]⟩ :: s.responses }) ∧
     (words.length ≤ idx.toNat → exec (.getsBq idx) s = .next { s with
        flt := s.flt ||| 0b0001, responses := ⟨.illegal, []⟩ :: s.responses })) ∧
    (let words : List Word64 := [bits64 s.zlp.sr, bits64 s.zlp.fc, bits64 s.zlp.gs, bits64 s.zlp.gg, bits64 s.zlp.gr,
      bits64 s.zlp.s, (if s.zlp.init then 1 else 0)]
     (∀ h : idx.toNat < words.length, exec (.getsZlp idx) s = .next { s with
        responses := ⟨.ok, [words[idx.toNat]]⟩ :: s.responses }) ∧
     (words.length ≤ idx.toNat → exec (.getsZlp idx) s = .next { s with
        flt := s.flt ||| 0b0001, responses := ⟨.illegal, []⟩ :: s.responses })) ∧
    (let words : List Word64 := [bits64 s.zhp.sr, bits64 s.zhp.fc, bits64 s.zhp.gs, bits64 s.zhp.gg, bits64 s.zhp.gr,
      bits64 s.zhp.s, (if s.zhp.init then 1 else 0)]
     (∀ h : idx.toNat < words.length, exec (.getsZhp idx) s = .next { s with
        responses := ⟨.ok, [words[idx.toNat]]⟩ :: s.responses }) ∧
     (words.length ≤ idx.toNat → exec (.getsZhp idx) s = .next { s with
        flt := s.flt ||| 0b0001, responses := ⟨.illegal, []⟩ :: s.responses })) ∧
    (let words : List Word64 := [bits64 s.llp.sr, bits64 s.llp.fc, bits64 s.llp.res, bits64 s.llp.k, bits64 s.llp.gs,
      bits64 s.llp.gg, bits64 s.llp.gr, bits64 s.llp.g2, bits64 s.llp.g3, bits64 s.llp.g4, bits64 s.llp.s1,
      bits64 s.llp.s2, bits64 s.llp.s3, bits64 s.llp.s4, (if s.llp.init then 1 else 0)]
     (∀ h : idx.toNat < words.length, exec (.getsLlp idx) s = .next { s with
        responses := ⟨.ok, [words[idx.toNat]]⟩ :: s.responses }) ∧
     (words.length ≤ idx.toNat → exec (.getsLlp idx) s = .next { s with
        flt := s.flt ||| 0b0001, responses := ⟨.illegal, []⟩ :: s.responses })) ∧
    (let words : List Word64 := [bits64 s.lhp.sr, bits64 s.lhp.fc, bits64 s.lhp.res, bits64 s.lhp.k, bits64 s.lhp.gs,
      bits64 s.lhp.gg, bits64 s.lhp.gr, bits64 s.lhp.g2, bits64 s.lhp.g3, bits64 s.lhp.g4, bits64 s.lhp.s1,
      bits64 s.lhp.s2, bits64 s.lhp.s3, bits64 s.lhp.s4, (if s.lhp.init then 1 else 0)]
     (∀ h : idx.toNat < words.length, exec (.getsLhp idx) s = .next { s with
        responses := ⟨.ok, [words[idx.toNat]]⟩ :: s.responses }) ∧
     (words.length ≤ idx.toNat → exec (.getsLhp idx) s = .next { s with
        flt := s.flt ||| 0b0001, responses := ⟨.illegal, []⟩ :: s.responses })) ∧
    (let words : List Word64 := [bits64 s.skh.sr, bits64 s.skh.fc, bits64 s.skh.res, bits64 s.skh.k, bits64 s.skh.gs,
      bits64 s.skh.gg, bits64 s.skh.gm, bits64 s.skh.s1, bits64 s.skh.s2, (if s.skh.init then 1 else 0)]
     (∀ h : idx.toNat < words.length, exec (.getsSkh idx) s = .next { s with
        responses := ⟨.ok, [words[idx.toNat]]⟩ :: s.responses }) ∧
     (words.length ≤ idx.toNat → exec (.getsSkh idx) s = .next { s with
        flt := s.flt ||| 0b0001, responses := ⟨.illegal, []⟩ :: s.responses }))

/-- `GETS` of ENV, OSN and OSA (R221): the register at the index, in the order of the register tables; small fields
zero-extended by their code numbers. An index past the last register is no instruction; that `exec` refuses it ILLEGAL
is the model's reading of R93 (log 11). -/
def Obligations.RegisterReadbackOfTheGenerators : Prop :=
  ∀ (idx : BitVec 8) (s : State),
    (let st : Word64 :=
       match s.env.st with | .idle => 0 | .attack => 1 | .decay => 2 | .sustain => 3 | .release => 4
     let words : List Word64 :=
       [bits64 s.env.sr, bits64 s.env.att, bits64 s.env.dec, bits64 s.env.sus, bits64 s.env.rel, bits64 s.env.cnt,
         bits64 s.env.seg, bits64 s.env.dlt, bits64 s.env.out, st, (if s.env.gate then 1 else 0),
         (if s.env.init then 1 else 0)]
     (∀ h : idx.toNat < words.length, exec (.getsEnv idx) s = .next { s with
        responses := ⟨.ok, [words[idx.toNat]]⟩ :: s.responses }) ∧
     (words.length ≤ idx.toNat → exec (.getsEnv idx) s = .next { s with
        flt := s.flt ||| 0b0001, responses := ⟨.illegal, []⟩ :: s.responses })) ∧
    (let words : List Word64 := [bits64 s.osn.sr, bits64 s.osn.freq, bits64 s.osn.pw, bits64 s.osn.phs,
      bits64 s.osn.inc, bits64 s.osn.ph, bits64 s.osn.tph, (if s.osn.init then 1 else 0)]
     (∀ h : idx.toNat < words.length, exec (.getsOsn idx) s = .next { s with
        responses := ⟨.ok, [words[idx.toNat]]⟩ :: s.responses }) ∧
     (words.length ≤ idx.toNat → exec (.getsOsn idx) s = .next { s with
        flt := s.flt ||| 0b0001, responses := ⟨.illegal, []⟩ :: s.responses })) ∧
    (let dir : Word64 := match s.osa.dir with | .up => 0 | .down => 1
     let words : List Word64 :=
       [bits64 s.osa.sr, bits64 s.osa.freq, bits64 s.osa.pw, bits64 s.osa.phs, bits64 s.osa.d, bits64 s.osa.inc2,
         bits64 s.osa.sthr, bits64 s.osa.rd, bits64 s.osa.e, bits64 s.osa.elo, bits64 s.osa.ehi, bits64 s.osa.a,
         bits64 s.osa.b, bits64 s.osa.tthr, bits64 s.osa.bthr, bits64 s.osa.rba, bits64 s.osa.rab, bits64 s.osa.dcp,
         bits64 s.osa.dct, bits64 s.osa.sawc.c2, bits64 s.osa.sawc.c1, bits64 s.osa.sawc.c0, bits64 s.osa.pupc.c2,
         bits64 s.osa.pupc.c1, bits64 s.osa.pupc.c0, bits64 s.osa.pdnc.c2, bits64 s.osa.pdnc.c1, bits64 s.osa.pdnc.c0,
         bits64 s.osa.topc.c2, bits64 s.osa.topc.c1, bits64 s.osa.topc.c0, bits64 s.osa.botc.c2, bits64 s.osa.botc.c1,
         bits64 s.osa.botc.c0, bits64 s.osa.ps, bits64 s.osa.pt, dir, (if s.osa.init then 1 else 0)]
     (∀ h : idx.toNat < words.length, exec (.getsOsa idx) s = .next { s with
        responses := ⟨.ok, [words[idx.toNat]]⟩ :: s.responses }) ∧
     (words.length ≤ idx.toNat → exec (.getsOsa idx) s = .next { s with
        flt := s.flt ||| 0b0001, responses := ⟨.illegal, []⟩ :: s.responses }))

/-- `RESET.ZLP`, `RESET.ZHP`, `SETP.ZLP` and `SETP.ZHP` (R133 to R136) with the gains of R132. -/
def Obligations.ZdfResetAndParameters : Prop :=
  ∀ (sr fc : F64) (s : State),
    (∃ (n : Nat → F64) (drawn : Nat), AllNaN n ∧
       let gs := Config.tan (F64.div (n 1) (F64.mul (n 0) cPi s.zlp.fc) sr)
       let den := F64.add (n 2) fOne gs
       let gr := F64.div (n 3) fOne den
       let gg := F64.div (n 4) gs den
       exec (.resetZlp sr) s = .next { s with
         zlp := { s.zlp with sr := sr, gs := gs, gg := gg, gr := gr, s := fZero, init := true }
         draws := s.draws.set .zlp drawn, responses := ⟨.ok, []⟩ :: s.responses }) ∧
    (s.zlp.init = false → exec (.setpZlp fc) s = .next { s with
       zlp := { s.zlp with fc := fc }, responses := ⟨.ok, []⟩ :: s.responses }) ∧
    (s.zlp.init = true → ∃ (n : Nat → F64) (drawn : Nat), AllNaN n ∧
       let gs := Config.tan (F64.div (n 1) (F64.mul (n 0) cPi fc) s.zlp.sr)
       let den := F64.add (n 2) fOne gs
       let gr := F64.div (n 3) fOne den
       let gg := F64.div (n 4) gs den
       exec (.setpZlp fc) s = .next { s with
         zlp := { s.zlp with fc := fc, gs := gs, gg := gg, gr := gr }, draws := s.draws.set .zlp drawn
         responses := ⟨.ok, []⟩ :: s.responses }) ∧
    (∃ (n : Nat → F64) (drawn : Nat), AllNaN n ∧
       let gs := Config.tan (F64.div (n 1) (F64.mul (n 0) cPi s.zhp.fc) sr)
       let den := F64.add (n 2) fOne gs
       let gr := F64.div (n 3) fOne den
       let gg := gr
       exec (.resetZhp sr) s = .next { s with
         zhp := { s.zhp with sr := sr, gs := gs, gg := gg, gr := gr, s := fZero, init := true }
         draws := s.draws.set .zhp drawn, responses := ⟨.ok, []⟩ :: s.responses }) ∧
    (s.zhp.init = false → exec (.setpZhp fc) s = .next { s with
       zhp := { s.zhp with fc := fc }, responses := ⟨.ok, []⟩ :: s.responses }) ∧
    (s.zhp.init = true → ∃ (n : Nat → F64) (drawn : Nat), AllNaN n ∧
       let gs := Config.tan (F64.div (n 1) (F64.mul (n 0) cPi fc) s.zhp.sr)
       let den := F64.add (n 2) fOne gs
       let gr := F64.div (n 3) fOne den
       let gg := gr
       exec (.setpZhp fc) s = .next { s with
         zhp := { s.zhp with fc := fc, gs := gs, gg := gg, gr := gr }, draws := s.draws.set .zhp drawn
         responses := ⟨.ok, []⟩ :: s.responses })

/-- `PROC.ZLP x` and `PROC.ZHP x` (R137, R138): one stage step of R131 on S with the gain GG. -/
def Obligations.ProcZdfRunsOneStage : Prop :=
  ∀ (x : F64) (s : State),
    (s.zlp.init = true → ∃ (n : Nat → F64) (drawn : Nat), AllNaN n ∧
       let v1 := F64.mul (n 1) s.zlp.gg (F64.sub (n 0) x s.zlp.s)
       let y1 := (F64.add (n 2) v1 s.zlp.s).flush
       let s1 := (F64.add (n 3) y1 v1).flush
       exec (.procZlp x) s = .next { s with
         zlp := { s.zlp with s := s1 }, flt := s.flt ||| nfAny [s1, y1], draws := s.draws.set .zlp drawn
         responses := ⟨.ok, [bits64 y1]⟩ :: s.responses }) ∧
    (s.zhp.init = true → ∃ (n : Nat → F64) (drawn : Nat), AllNaN n ∧
       let y1 := (F64.mul (n 1) s.zhp.gg (F64.sub (n 0) x s.zhp.s)).flush
       let t1 := F64.sub (n 2) x y1
       let s1 := (F64.sub (n 4) (F64.add (n 3) t1 t1) s.zhp.s).flush
       exec (.procZhp x) s = .next { s with
         zhp := { s.zhp with s := s1 }, flt := s.flt ||| nfAny [s1, y1], draws := s.draws.set .zhp drawn
         responses := ⟨.ok, [bits64 y1]⟩ :: s.responses })

/-- `RESET.LLP`, `RESET.LHP`, `SETP.LLP` and `SETP.LHP` (R147 to R150) with the derivation of R146. -/
def Obligations.LadderResetAndParameters : Prop :=
  ∀ (sr fc res : F64) (s : State),
    (∃ (n : Nat → F64) (drawn : Nat), AllNaN n ∧
       let gs := Config.tan (F64.div (n 1) (F64.mul (n 0) cPi s.llp.fc) sr)
       let den := F64.add (n 2) fOne gs
       let gr := F64.div (n 3) fOne den
       let gg := F64.div (n 4) gs den
       let g2 := F64.mul (n 5) gg gg
       let g3 := F64.mul (n 6) g2 gg
       let g4 := F64.mul (n 7) g3 gg
       let k := F64.mul (n 8) cKlad s.llp.res
       exec (.resetLlp sr) s = .next { s with
         llp := { s.llp with
             sr := sr, k := k, gs := gs, gg := gg, gr := gr, g2 := g2, g3 := g3, g4 := g4, s1 := fZero, s2 := fZero
             s3 := fZero, s4 := fZero, init := true }
         draws := s.draws.set .llp drawn, responses := ⟨.ok, []⟩ :: s.responses }) ∧
    (s.llp.init = false → exec (.setpLlp fc res) s = .next { s with
       llp := { s.llp with fc := fc, res := res }, responses := ⟨.ok, []⟩ :: s.responses }) ∧
    (s.llp.init = true → ∃ (n : Nat → F64) (drawn : Nat), AllNaN n ∧
       let gs := Config.tan (F64.div (n 1) (F64.mul (n 0) cPi fc) s.llp.sr)
       let den := F64.add (n 2) fOne gs
       let gr := F64.div (n 3) fOne den
       let gg := F64.div (n 4) gs den
       let g2 := F64.mul (n 5) gg gg
       let g3 := F64.mul (n 6) g2 gg
       let g4 := F64.mul (n 7) g3 gg
       let k := F64.mul (n 8) cKlad res
       exec (.setpLlp fc res) s = .next { s with
         llp :=
           { s.llp with fc := fc, res := res, k := k, gs := gs, gg := gg, gr := gr, g2 := g2, g3 := g3, g4 := g4 }
         draws := s.draws.set .llp drawn, responses := ⟨.ok, []⟩ :: s.responses }) ∧
    (∃ (n : Nat → F64) (drawn : Nat), AllNaN n ∧
       let gs := Config.tan (F64.div (n 1) (F64.mul (n 0) cPi s.lhp.fc) sr)
       let den := F64.add (n 2) fOne gs
       let gr := F64.div (n 3) fOne den
       let gg := gr
       let g2 := F64.mul (n 4) gg gg
       let g3 := F64.mul (n 5) g2 gg
       let g4 := F64.mul (n 6) g3 gg
       let k := F64.mul (n 7) cKlad s.lhp.res
       exec (.resetLhp sr) s = .next { s with
         lhp := { s.lhp with
             sr := sr, k := k, gs := gs, gg := gg, gr := gr, g2 := g2, g3 := g3, g4 := g4, s1 := fZero, s2 := fZero
             s3 := fZero, s4 := fZero, init := true }
         draws := s.draws.set .lhp drawn, responses := ⟨.ok, []⟩ :: s.responses }) ∧
    (s.lhp.init = false → exec (.setpLhp fc res) s = .next { s with
       lhp := { s.lhp with fc := fc, res := res }, responses := ⟨.ok, []⟩ :: s.responses }) ∧
    (s.lhp.init = true → ∃ (n : Nat → F64) (drawn : Nat), AllNaN n ∧
       let gs := Config.tan (F64.div (n 1) (F64.mul (n 0) cPi fc) s.lhp.sr)
       let den := F64.add (n 2) fOne gs
       let gr := F64.div (n 3) fOne den
       let gg := gr
       let g2 := F64.mul (n 4) gg gg
       let g3 := F64.mul (n 5) g2 gg
       let g4 := F64.mul (n 6) g3 gg
       let k := F64.mul (n 7) cKlad res
       exec (.setpLhp fc res) s = .next { s with
         lhp :=
           { s.lhp with fc := fc, res := res, k := k, gs := gs, gg := gg, gr := gr, g2 := g2, g3 := g3, g4 := g4 }
         draws := s.draws.set .lhp drawn, responses := ⟨.ok, []⟩ :: s.responses })

/-- `PROC.LLP x` (R152): the closed-form loop input, then four stage steps of R131. -/
def Obligations.ProcLlpSolvesTheLoop : Prop :=
  ∀ (x : F64) (s : State), s.llp.init = true →
    ∃ (n : Nat → F64) (drawn : Nat), AllNaN n ∧
      let sigma :=
        F64.mul (n 6) (F64.add (n 5) (F64.add (n 4) (F64.add (n 2) (F64.mul (n 0) s.llp.g3 s.llp.s1) (F64.mul (n 1)
          s.llp.g2 s.llp.s2)) (F64.mul (n 3) s.llp.gg s.llp.s3)) s.llp.s4) s.llp.gr
      let u :=
        F64.div (n 11) (F64.sub (n 8) x (F64.mul (n 7) s.llp.k sigma)) (F64.add (n 10) fOne (F64.mul (n 9) s.llp.k
          s.llp.g4))
      let v1 := F64.mul (n 13) s.llp.gg (F64.sub (n 12) u s.llp.s1)
      let y1 := (F64.add (n 14) v1 s.llp.s1).flush
      let s1 := (F64.add (n 15) y1 v1).flush
      let v2 := F64.mul (n 17) s.llp.gg (F64.sub (n 16) y1 s.llp.s2)
      let y2 := (F64.add (n 18) v2 s.llp.s2).flush
      let s2 := (F64.add (n 19) y2 v2).flush
      let v3 := F64.mul (n 21) s.llp.gg (F64.sub (n 20) y2 s.llp.s3)
      let y3 := (F64.add (n 22) v3 s.llp.s3).flush
      let s3 := (F64.add (n 23) y3 v3).flush
      let v4 := F64.mul (n 25) s.llp.gg (F64.sub (n 24) y3 s.llp.s4)
      let y4 := (F64.add (n 26) v4 s.llp.s4).flush
      let s4 := (F64.add (n 27) y4 v4).flush
      exec (.procLlp x) s = .next { s with
        llp := { s.llp with s1 := s1, s2 := s2, s3 := s3, s4 := s4 }, flt := s.flt ||| nfAny [s1, s2, s3, s4, y4]
        draws := s.draws.set .llp drawn, responses := ⟨.ok, [bits64 y4]⟩ :: s.responses }

/-- `PROC.LHP x` (R153): the closed-form loop input, then four stage steps of R131. -/
def Obligations.ProcLhpSolvesTheLoop : Prop :=
  ∀ (x : F64) (s : State), s.lhp.init = true →
    ∃ (n : Nat → F64) (drawn : Nat), AllNaN n ∧
      let sigma :=
        (F64.mul (n 6) (F64.add (n 5) (F64.add (n 4) (F64.add (n 2) (F64.mul (n 0) s.lhp.g3 s.lhp.s1) (F64.mul (n 1)
           s.lhp.g2 s.lhp.s2)) (F64.mul (n 3) s.lhp.gg s.lhp.s3)) s.lhp.s4) s.lhp.gr).neg
      let u :=
        F64.div (n 11) (F64.sub (n 8) x (F64.mul (n 7) s.lhp.k sigma)) (F64.add (n 10) fOne (F64.mul (n 9) s.lhp.k
          s.lhp.g4))
      let y1 := (F64.mul (n 13) s.lhp.gg (F64.sub (n 12) u s.lhp.s1)).flush
      let t1 := F64.sub (n 14) u y1
      let s1 := (F64.sub (n 16) (F64.add (n 15) t1 t1) s.lhp.s1).flush
      let y2 := (F64.mul (n 18) s.lhp.gg (F64.sub (n 17) y1 s.lhp.s2)).flush
      let t2 := F64.sub (n 19) y1 y2
      let s2 := (F64.sub (n 21) (F64.add (n 20) t2 t2) s.lhp.s2).flush
      let y3 := (F64.mul (n 23) s.lhp.gg (F64.sub (n 22) y2 s.lhp.s3)).flush
      let t3 := F64.sub (n 24) y2 y3
      let s3 := (F64.sub (n 26) (F64.add (n 25) t3 t3) s.lhp.s3).flush
      let y4 := (F64.mul (n 28) s.lhp.gg (F64.sub (n 27) y3 s.lhp.s4)).flush
      let t4 := F64.sub (n 29) y3 y4
      let s4 := (F64.sub (n 31) (F64.add (n 30) t4 t4) s.lhp.s4).flush
      exec (.procLhp x) s = .next { s with
        lhp := { s.lhp with s1 := s1, s2 := s2, s3 := s3, s4 := s4 }, flt := s.flt ||| nfAny [s1, s2, s3, s4, y4]
        draws := s.draws.set .lhp drawn, responses := ⟨.ok, [bits64 y4]⟩ :: s.responses }

/-- `RESET.SKH sr` and `SETP.SKH fc, res` (R158, R159) with the derivation of R160. -/
def Obligations.SkhResetAndParameters : Prop :=
  ∀ (sr fc res : F64) (s : State),
    (∃ (n : Nat → F64) (drawn : Nat), AllNaN n ∧
       let gs := Config.tan (F64.div (n 1) (F64.mul (n 0) cPi s.skh.fc) sr)
       let gg := F64.div (n 3) fOne (F64.add (n 2) fOne gs)
       let gm := F64.sub (n 5) gg (F64.mul (n 4) gg gg)
       let k := F64.mul (n 6) cKsk s.skh.res
       exec (.resetSkh sr) s = .next { s with
         skh := { s.skh with sr := sr, k := k, gs := gs, gg := gg, gm := gm, s1 := fZero, s2 := fZero, init := true }
         draws := s.draws.set .skh drawn, responses := ⟨.ok, []⟩ :: s.responses }) ∧
    (s.skh.init = false → exec (.setpSkh fc res) s = .next { s with
       skh := { s.skh with fc := fc, res := res }, responses := ⟨.ok, []⟩ :: s.responses }) ∧
    (s.skh.init = true → ∃ (n : Nat → F64) (drawn : Nat), AllNaN n ∧
       let gs := Config.tan (F64.div (n 1) (F64.mul (n 0) cPi fc) s.skh.sr)
       let gg := F64.div (n 3) fOne (F64.add (n 2) fOne gs)
       let gm := F64.sub (n 5) gg (F64.mul (n 4) gg gg)
       let k := F64.mul (n 6) cKsk res
       exec (.setpSkh fc res) s = .next { s with
         skh := { s.skh with fc := fc, res := res, k := k, gs := gs, gg := gg, gm := gm }
         draws := s.draws.set .skh drawn, responses := ⟨.ok, []⟩ :: s.responses })

/-- `PROC.SKH x` (R161): the loop input, the saturator, then two high-pass stage steps of R131. -/
def Obligations.ProcSkhSolvesTheLoopAndSaturates : Prop :=
  ∀ (x : F64) (s : State), s.skh.init = true →
    ∃ (n : Nat → F64) (drawn : Nat), AllNaN n ∧
      let sigma := F64.sub (n 2) (F64.mul (n 0) s.skh.gm s.skh.s1) (F64.mul (n 1) s.skh.gg s.skh.s2)
      let u :=
        F64.div (n 7) (F64.sub (n 4) x (F64.mul (n 3) s.skh.k sigma)) (F64.sub (n 6) fOne (F64.mul (n 5) s.skh.k
          s.skh.gm))
      let us := Config.sat u
      let y1 := (F64.mul (n 9) s.skh.gg (F64.sub (n 8) us s.skh.s1)).flush
      let t1 := F64.sub (n 10) us y1
      let s1 := (F64.sub (n 12) (F64.add (n 11) t1 t1) s.skh.s1).flush
      let y2 := (F64.mul (n 14) s.skh.gg (F64.sub (n 13) y1 s.skh.s2)).flush
      let t2 := F64.sub (n 15) y1 y2
      let s2 := (F64.sub (n 17) (F64.add (n 16) t2 t2) s.skh.s2).flush
      exec (.procSkh x) s = .next { s with
        skh := { s.skh with s1 := s1, s2 := s2 }, flt := s.flt ||| nfAny [s1, s2, y2]
        draws := s.draws.set .skh drawn, responses := ⟨.ok, [bits64 y2]⟩ :: s.responses }

/-- `RESET.ENV sr`, `SETP.ENV att, dec, sus, rel` and `GATE.ENV b` (R171, R172, R173). -/
def Obligations.EnvResetParametersAndGate : Prop :=
  ∀ (sr att dec sus rel : F64) (b : Bool) (s : State),
    exec (.resetEnv sr) s = .next { s with
      env := { s.env with
          sr := sr, st := .idle, cnt := fZero, seg := fZero, dlt := fZero, out := fZero, gate := false, init := true }
      responses := ⟨.ok, []⟩ :: s.responses } ∧
    exec (.setpEnv att dec sus rel) s = .next { s with
      env := { s.env with att := att, dec := dec, sus := sus, rel := rel }, responses := ⟨.ok, []⟩ :: s.responses } ∧
    exec (.gateEnv b) s = .next { s with env := { s.env with gate := b }, responses := ⟨.ok, []⟩ :: s.responses }

/-- `REND.ENV` from Idle and from Sustain (R174, R175, R176, R178, R181): the output, the gate test, and nothing else
of the counter. That OUT takes each Sustain output is the model's choice between R174 and R185(e) (log 18). -/
def Obligations.RendEnvIdleAndSustain : Prop :=
  ∀ s : State, s.env.init = true →
    (s.env.st = .idle → ∃ (n : Nat → F64) (drawn : Nat), AllNaN n ∧
       let dlt := (F64.div (n 2) fOne (F64.mul (n 1) (F64.mul (n 0) cAtkf s.env.att) s.env.sr)).flush
       exec .rendEnv s = .next { s with
         env := (if s.env.gate then
              { s.env with out := fZero, st := .attack, dlt := dlt, cnt := fZero, seg := fZero }
            else { s.env with out := fZero })
         flt := s.flt ||| (if s.env.gate then nfAny [dlt] else 0), draws := s.draws.set .env drawn
         responses := ⟨.ok, [bits64 fZero]⟩ :: s.responses }) ∧
    (s.env.st = .sustain → ∃ (n : Nat → F64) (drawn : Nat), AllNaN n ∧
       let o := (F64.mul (n 0) s.env.sus cPeak).flush
       let dlt := (F64.div (n 2) fOne (F64.mul (n 1) s.env.rel s.env.sr)).flush
       exec .rendEnv s = .next { s with
         env := (if s.env.gate then
              { s.env with out := o }
            else { s.env with out := o, st := .release, dlt := dlt, cnt := fZero, seg := o })
         flt := s.flt ||| nfAny [o] ||| (if s.env.gate then 0 else nfAny [dlt]), draws := s.draws.set .env drawn
         responses := ⟨.ok, [bits64 o]⟩ :: s.responses })

/-- `REND.ENV` from Attack (R174, R175, R176, R179). -/
def Obligations.RendEnvAttack : Prop :=
  ∀ s : State, s.env.init = true → s.env.st = .attack →
    ∃ (n : Nat → F64) (drawn : Nat), AllNaN n ∧
      let m := F64.sqrt (n 0) s.env.cnt
      let o := (F64.add (n 3) s.env.seg (F64.mul (n 2) (F64.sub (n 1) cVmax s.env.seg) m)).flush
      let cnt := (F64.add (n 4) s.env.cnt s.env.dlt).flush
      let rel := (F64.div (n 6) fOne (F64.mul (n 5) s.env.rel s.env.sr)).flush
      let thr := F64.sub (n 5) cPeak cEps
      let dec := (F64.div (n 7) fOne (F64.mul (n 6) s.env.dec s.env.sr)).flush
      thr = f64 0x401FFFFD60E94EE4 ∧ exec .rendEnv s = .next { s with
        env := (if s.env.gate then
             if F64.ge o thr then
               { s.env with out := o, st := .decay, dlt := dec, cnt := fZero }
             else { s.env with out := o, cnt := cnt }
           else { s.env with out := o, st := .release, dlt := rel, cnt := fZero, seg := o })
        flt :=
          s.flt ||| nfAny [cnt, o] ||| (if s.env.gate then if F64.ge o thr then nfAny [dec] else 0 else nfAny [rel])
        draws := s.draws.set .env drawn, responses := ⟨.ok, [bits64 o]⟩ :: s.responses }

/-- `REND.ENV` from Decay (R174, R175, R176, R180). -/
def Obligations.RendEnvDecay : Prop :=
  ∀ s : State, s.env.init = true → s.env.st = .decay →
    ∃ (n : Nat → F64) (drawn : Nat), AllNaN n ∧
      let m := F64.mul (n 0) s.env.cnt s.env.cnt
      let hi := F64.mul (n 1) s.env.sus cPeak
      let o := (F64.add (n 4) cPeak (F64.mul (n 3) (F64.sub (n 2) hi cPeak) m)).flush
      let cnt := (F64.add (n 5) s.env.cnt s.env.dlt).flush
      let rel := (F64.div (n 7) fOne (F64.mul (n 6) s.env.rel s.env.sr)).flush
      let thr := F64.add (n 7) (F64.mul (n 6) s.env.sus cPeak) cEps
      exec .rendEnv s = .next { s with
        env := (if s.env.gate then
             if F64.le o thr then
               { s.env with out := o, cnt := cnt, st := .sustain }
             else { s.env with out := o, cnt := cnt }
           else { s.env with out := o, st := .release, dlt := rel, cnt := fZero, seg := o })
        flt := s.flt ||| nfAny [cnt, o] ||| (if s.env.gate then 0 else nfAny [rel]), draws := s.draws.set .env drawn
        responses := ⟨.ok, [bits64 o]⟩ :: s.responses }

/-- `REND.ENV` from Release (R174, R175, R176, R182). -/
def Obligations.RendEnvRelease : Prop :=
  ∀ s : State, s.env.init = true → s.env.st = .release →
    ∃ (n : Nat → F64) (drawn : Nat), AllNaN n ∧
      let m := F64.mul (n 0) s.env.cnt s.env.cnt
      let o := (F64.add (n 3) s.env.seg (F64.mul (n 2) (F64.sub (n 1) fZero s.env.seg) m)).flush
      let cnt := (F64.add (n 4) s.env.cnt s.env.dlt).flush
      let att := (F64.div (n 7) fOne (F64.mul (n 6) (F64.mul (n 5) cAtkf s.env.att) s.env.sr)).flush
      let thr := F64.add (n 5) fZero cEps
      thr = cEps ∧ exec .rendEnv s = .next { s with
        env := (if s.env.gate then
             { s.env with out := o, st := .attack, dlt := att, cnt := fZero, seg := o }
           else if F64.le o thr then
             { s.env with out := o, cnt := cnt, st := .idle }
           else { s.env with out := o, cnt := cnt })
        flt := s.flt ||| nfAny [cnt, o] ||| (if s.env.gate then nfAny [att] else 0), draws := s.draws.set .env drawn
        responses := ⟨.ok, [bits64 o]⟩ :: s.responses }

/-- `RESET.OSN sr`, `SETP.OSN freq, pw, phs` and `RETRIG.OSN` (R191, R192, R193). -/
def Obligations.OsnResetParametersAndRetrigger : Prop :=
  ∀ (sr freq pw phs : F64) (s : State),
    (∃ (n : Nat → F64) (drawn : Nat), AllNaN n ∧
       let inc := F64.div (n 0) s.osn.freq sr
       let t := F64.add (n 1) s.osn.phs fHalf
       let tph := (if F64.ge t fOne then F64.sub (n 2) t fOne else t).flush
       exec (.resetOsn sr) s = .next { s with
         osn := { s.osn with sr := sr, inc := inc, ph := s.osn.phs.flush, tph := tph, init := true }
         flt := s.flt ||| nfAny [s.osn.phs, tph], draws := s.draws.set .osn drawn
         responses := ⟨.ok, []⟩ :: s.responses }) ∧
    (s.osn.init = false → exec (.setpOsn freq pw phs) s = .next { s with
       osn := { s.osn with freq := freq, pw := pw, phs := phs }, responses := ⟨.ok, []⟩ :: s.responses }) ∧
    (s.osn.init = true → ∃ (n : Nat → F64) (drawn : Nat), AllNaN n ∧
       let inc := F64.div (n 0) freq s.osn.sr
       exec (.setpOsn freq pw phs) s = .next { s with
         osn := { s.osn with freq := freq, pw := pw, phs := phs, inc := inc }, draws := s.draws.set .osn drawn
         responses := ⟨.ok, []⟩ :: s.responses }) ∧
    (s.osn.init = true → ∃ (n : Nat → F64) (drawn : Nat), AllNaN n ∧
       let t := F64.add (n 0) s.osn.phs fHalf
       let tph := (if F64.ge t fOne then F64.sub (n 1) t fOne else t).flush
       exec .retrigOsn s = .next { s with
         osn := { s.osn with ph := s.osn.phs.flush, tph := tph }, flt := s.flt ||| nfAny [s.osn.phs, tph]
         draws := s.draws.set .osn drawn, responses := ⟨.ok, []⟩ :: s.responses })

/-- `REND.OSN` (R194): the three waveforms from the counters before the advance, then the two advances. -/
def Obligations.RendOsnWaveformsAndAdvance : Prop :=
  ∀ s : State, s.osn.init = true →
    ∃ (n : Nat → F64) (drawn : Nat), AllNaN n ∧
      let saw := F64.sub (n 1) (F64.mul (n 0) fTwo s.osn.ph) fOne
      let ts := F64.sub (n 3) (F64.mul (n 2) fTwo s.osn.tph) fOne
      let tri := F64.sub (n 5) (F64.mul (n 4) fTwo ts.abs) fOne
      let pul := if F64.lt saw fZero then fOne else fNegOne
      let p := F64.add (n 6) s.osn.ph s.osn.inc
      let ph := (if F64.ge p fOne then F64.sub (n 7) p fOne else p).flush
      let q := F64.add (n 8) s.osn.tph s.osn.inc
      let tph := (if F64.ge q fOne then F64.sub (n 9) q fOne else q).flush
      exec .rendOsn s = .next { s with
        osn := { s.osn with ph := ph, tph := tph }, flt := s.flt ||| nfAny [ph, tph, saw, tri]
        draws := s.draws.set .osn drawn
        responses := ⟨.ok, [bits64 saw.flush, bits64 tri.flush, bits64 pul]⟩ :: s.responses }

/-- `RESET.OSA sr` (R202): the derivation of R201 and R205 in full, then the phase of R204. -/
def Obligations.ResetOsaDerivesAndSetsThePhase : Prop :=
  ∀ (sr : F64) (s : State),
    ∃ (n : Nat → F64) (drawn : Nat), AllNaN n ∧
      let d := F64.div (n 0) s.osa.freq sr
      let inc2 := F64.mul (n 1) fTwo d
      let sthr := F64.sub (n 2) fOne d
      let rd := F64.div (n 3) fOne d
      let sawc1 := F64.sub (n 4) fOne rd
      let sawc0 := F64.sub (n 5) rd fOne
      let e := F64.sub (n 7) (F64.mul (n 6) fTwo s.osa.pw) fOne
      let elo := F64.sub (n 8) e d
      let ehi := F64.add (n 9) e d
      let pdnc0 := F64.mul (n 10) rd e
      let a := F64.div (n 11) inc2 s.osa.pw
      let b := (F64.div (n 13) inc2 (F64.sub (n 12) fOne s.osa.pw)).neg
      let ha := F64.mul (n 14) a fHalf
      let hb := F64.mul (n 15) b fHalf
      let tthr := F64.sub (n 16) fOne ha
      let bthr := F64.sub (n 17) fNegOne hb
      let m := F64.add (n 18) fOne ha
      let r := F64.sub (n 19) fOne ha
      let topc2 := F64.div (n 23) (F64.sub (n 20) b a) (F64.mul (n 22) (F64.mul (n 21) fTwo a) a)
      let topc0 :=
        F64.add (n 33) (F64.sub (n 27) fOne (F64.div (n 26) (F64.mul (n 24) m m) (F64.mul (n 25) fTwo a))) (F64.div (n
          32) (F64.mul (n 29) b (F64.mul (n 28) r r)) (F64.mul (n 31) (F64.mul (n 30) fTwo a) a))
      let topc1 := F64.sub (n 38) (F64.div (n 34) m a) (F64.div (n 37) (F64.mul (n 35) b r) (F64.mul (n 36) a a))
      let u := F64.sub (n 39) fOne hb
      let v := F64.add (n 40) fOne hb
      let botc2 := F64.div (n 44) (F64.sub (n 41) a b) (F64.mul (n 43) (F64.mul (n 42) fTwo b) b)
      let botc0 :=
        F64.add (n 54) (F64.sub (n 48) fNegOne (F64.div (n 47) (F64.mul (n 45) u u) (F64.mul (n 46) fTwo b))) (F64.div
          (n 53) (F64.mul (n 50) a (F64.mul (n 49) v v)) (F64.mul (n 52) (F64.mul (n 51) fTwo b) b))
      let botc1 := F64.sub (n 59) (F64.div (n 57) (F64.mul (n 55) a v) (F64.mul (n 56) b b)) (F64.div (n 58) u b)
      let rba := F64.div (n 60) b a
      let rab := F64.div (n 61) a b
      let asym := F64.mul (n 64) (F64.sub (n 63) s.osa.pw (F64.sub (n 62) fOne s.osa.pw)) Config.dcPer
      let dcp := F64.mul (n 65) Config.kdcPulse asym
      let dct := F64.mul (n 66) Config.kdcTri asym
      let ps := (F64.sub (n 68) (F64.mul (n 67) fTwo s.osa.phs) fOne).flush
      let pt :=
        if F64.lt s.osa.phs s.osa.pw then
          (F64.add (n 71) fNegOne (F64.div (n 70) (F64.mul (n 69) fTwo s.osa.phs) s.osa.pw)).flush
        else (F64.sub (n 73) fOne (F64.div (n 72) (F64.mul (n 70) fTwo (F64.sub (n 69) s.osa.phs s.osa.pw)) (F64.sub
          (n 71)
           fOne s.osa.pw))).flush
      let dir := if F64.lt s.osa.phs s.osa.pw then Dir.up else Dir.down
      exec (.resetOsa sr) s = .next { s with
        osa := { s.osa with
            sr := sr, d := d, inc2 := inc2, sthr := sthr, rd := rd, e := e, elo := elo, ehi := ehi, a := a, b := b
            tthr := tthr, bthr := bthr, rba := rba, rab := rab, dcp := dcp, dct := dct
            sawc := ⟨fZero, sawc1, sawc0⟩, pupc := ⟨fZero, rd, rd.neg⟩, pdnc := ⟨fZero, rd.neg, pdnc0⟩
            topc := ⟨topc2, topc1, topc0⟩, botc := ⟨botc2, botc1, botc0⟩, ps := ps, pt := pt, dir := dir
            init := true }
        flt := s.flt ||| nfAny [ps, pt], draws := s.draws.set .osa drawn, responses := ⟨.ok, []⟩ :: s.responses }

/-- `SETP.OSA freq, pw, phs` (R200, with R201 and R205) and `RETRIG.OSA` (R203, R204). -/
def Obligations.OsaParametersAndRetrigger : Prop :=
  ∀ (freq pw phs : F64) (s : State),
    ((s.osa.init = false ∨ F64.ne freq s.osa.freq = false ∧ F64.ne pw s.osa.pw = false) →
      exec (.setpOsa freq pw phs) s = .next { s with
        osa := { s.osa with freq := freq, pw := pw, phs := phs }, responses := ⟨.ok, []⟩ :: s.responses }) ∧
    (s.osa.init = true → (F64.ne freq s.osa.freq = true ∨ F64.ne pw s.osa.pw = true) →
      ∃ (n : Nat → F64) (drawn : Nat), AllNaN n ∧
        let d := F64.div (n 0) freq s.osa.sr
        let inc2 := F64.mul (n 1) fTwo d
        let sthr := F64.sub (n 2) fOne d
        let rd := F64.div (n 3) fOne d
        let sawc1 := F64.sub (n 4) fOne rd
        let sawc0 := F64.sub (n 5) rd fOne
        let e := F64.sub (n 7) (F64.mul (n 6) fTwo pw) fOne
        let elo := F64.sub (n 8) e d
        let ehi := F64.add (n 9) e d
        let pdnc0 := F64.mul (n 10) rd e
        let a := F64.div (n 11) inc2 pw
        let b := (F64.div (n 13) inc2 (F64.sub (n 12) fOne pw)).neg
        let ha := F64.mul (n 14) a fHalf
        let hb := F64.mul (n 15) b fHalf
        let tthr := F64.sub (n 16) fOne ha
        let bthr := F64.sub (n 17) fNegOne hb
        let m := F64.add (n 18) fOne ha
        let r := F64.sub (n 19) fOne ha
        let topc2 := F64.div (n 23) (F64.sub (n 20) b a) (F64.mul (n 22) (F64.mul (n 21) fTwo a) a)
        let topc0 :=
          F64.add (n 33) (F64.sub (n 27) fOne (F64.div (n 26) (F64.mul (n 24) m m) (F64.mul (n 25) fTwo a))) (F64.div
            (n 32) (F64.mul (n 29) b (F64.mul (n 28) r r)) (F64.mul (n 31) (F64.mul (n 30) fTwo a) a))
        let topc1 := F64.sub (n 38) (F64.div (n 34) m a) (F64.div (n 37) (F64.mul (n 35) b r) (F64.mul (n 36) a a))
        let u := F64.sub (n 39) fOne hb
        let v := F64.add (n 40) fOne hb
        let botc2 := F64.div (n 44) (F64.sub (n 41) a b) (F64.mul (n 43) (F64.mul (n 42) fTwo b) b)
        let botc0 :=
          F64.add (n 54) (F64.sub (n 48) fNegOne (F64.div (n 47) (F64.mul (n 45) u u) (F64.mul (n 46) fTwo b)))
            (F64.div (n 53) (F64.mul (n 50) a (F64.mul (n 49) v v)) (F64.mul (n 52) (F64.mul (n 51) fTwo b) b))
        let botc1 := F64.sub (n 59) (F64.div (n 57) (F64.mul (n 55) a v) (F64.mul (n 56) b b)) (F64.div (n 58) u b)
        let rba := F64.div (n 60) b a
        let rab := F64.div (n 61) a b
        let asym := F64.mul (n 64) (F64.sub (n 63) pw (F64.sub (n 62) fOne pw)) Config.dcPer
        let dcp := F64.mul (n 65) Config.kdcPulse asym
        let dct := F64.mul (n 66) Config.kdcTri asym
        exec (.setpOsa freq pw phs) s = .next { s with
          osa := { s.osa with
              freq := freq, pw := pw, phs := phs, d := d, inc2 := inc2, sthr := sthr, rd := rd, e := e, elo := elo
              ehi := ehi, a := a, b := b, tthr := tthr, bthr := bthr, rba := rba, rab := rab, dcp := dcp, dct := dct
              sawc := ⟨fZero, sawc1, sawc0⟩, pupc := ⟨fZero, rd, rd.neg⟩, pdnc := ⟨fZero, rd.neg, pdnc0⟩
              topc := ⟨topc2, topc1, topc0⟩, botc := ⟨botc2, botc1, botc0⟩ }
          draws := s.draws.set .osa drawn, responses := ⟨.ok, []⟩ :: s.responses }) ∧
    (s.osa.init = true →
      ∃ (n : Nat → F64) (drawn : Nat), AllNaN n ∧
        let ps := (F64.sub (n 1) (F64.mul (n 0) fTwo s.osa.phs) fOne).flush
        let pt :=
          if F64.lt s.osa.phs s.osa.pw then
            (F64.add (n 4) fNegOne (F64.div (n 3) (F64.mul (n 2) fTwo s.osa.phs) s.osa.pw)).flush
          else (F64.sub (n 6) fOne (F64.div (n 5) (F64.mul (n 3) fTwo (F64.sub (n 2) s.osa.phs s.osa.pw)) (F64.sub (n
            4)
             fOne s.osa.pw))).flush
        let dir := if F64.lt s.osa.phs s.osa.pw then Dir.up else Dir.down
        exec .retrigOsa s = .next { s with
          osa := { s.osa with ps := ps, pt := pt, dir := dir }, flt := s.flt ||| nfAny [ps, pt]
          draws := s.draws.set .osa drawn, responses := ⟨.ok, []⟩ :: s.responses })

/-- `REND.OSA` (R206, R207, R208): the regions, the polynomials, the wrap and the corner flips. -/
def Obligations.RendOsaCorrectsTheEdges : Prop :=
  ∀ s : State, s.osa.init = true →
    ∃ (n : Nat → F64) (drawn : Nat), AllNaN n ∧
      let p := s.osa.ps
      let wrap := F64.gt p s.osa.sthr
      let edge := F64.gt p s.osa.elo && F64.le p s.osa.ehi
      let saw :=
        if wrap then
          F64.add (n 3) (F64.mul (n 2) (F64.add (n 1) (F64.mul (n 0) s.osa.sawc.c2 p) s.osa.sawc.c1) p) s.osa.sawc.c0
        else p
      let pul :=
        if wrap then
          F64.add (n 7) (F64.mul (n 6) (F64.add (n 5) (F64.mul (n 4) s.osa.pupc.c2 p) s.osa.pupc.c1) p) s.osa.pupc.c0
        else if edge then
          F64.add (n 3) (F64.mul (n 2) (F64.add (n 1) (F64.mul (n 0) s.osa.pdnc.c2 p) s.osa.pdnc.c1) p) s.osa.pdnc.c0
        else if F64.lt p s.osa.e then fOne else fNegOne
      let ps := (if wrap then F64.add (n 9) (F64.sub (n 8) p fTwo) s.osa.inc2 else F64.add (n 9) p s.osa.inc2).flush
      let c := s.osa.pt
      let top := F64.gt c s.osa.tthr
      let bottom := F64.lt c s.osa.bthr
      let tri :=
        match s.osa.dir with
        | .up => if top then F64.add (n 13) (F64.mul (n 12) (F64.add (n 11) (F64.mul (n 10) s.osa.topc.c2 c)
              s.osa.topc.c1) c) s.osa.topc.c0 else c
        | .down => if bottom then F64.add (n 13) (F64.mul (n 12) (F64.add (n 11) (F64.mul (n 10) s.osa.botc.c2 c)
              s.osa.botc.c1) c) s.osa.botc.c0 else c
      let pt :=
        (match s.osa.dir with
         | .up => if top then F64.add (n 17) (F64.add (n 16) fOne (F64.mul (n 15) s.osa.rba (F64.sub (n 14) c
               fOne))) s.osa.b else F64.add (n 17) c s.osa.a
         | .down => if bottom then F64.add (n 17) (F64.add (n 16) fNegOne (F64.mul (n 15) s.osa.rab (F64.add (n 14)
               c fOne))) s.osa.a else F64.add (n 17) c s.osa.b).flush
      let dir :=
        match s.osa.dir with
        | .up => if top then Dir.down else Dir.up
        | .down => if bottom then Dir.up else Dir.down
      let tri2 := (F64.sub (n 18) tri s.osa.dct).flush
      let pul2 := (F64.sub (n 19) pul s.osa.dcp).flush
      exec .rendOsa s = .next { s with
        osa := { s.osa with ps := ps, pt := pt, dir := dir }, flt := s.flt ||| nfAny [ps, pt, saw, tri2, pul2]
        draws := s.draws.set .osa drawn
        responses := ⟨.ok, [bits64 saw.flush, bits64 tri2, bits64 pul2]⟩ :: s.responses }

/-- No command and no step clears a bit of FLT (R46, R224). -/
def Obligations.FaultFlagsAreSticky : Prop :=
  ∀ s t : State, step s = .next t → ∀ k, s.flt.getLsbD k = true → t.flt.getLsbD k = true

/-- INIT of a unit is set by that unit's `RESET` and by nothing else, and is never cleared (R47). -/
def Obligations.InitIsSetByResetOnly : Prop :=
  ∀ (i : Instr) (s t : State) (u : UnitId), exec i s = .next t →
    t.init u = (s.init u || decide (resetOf i = some u))

/-- A step keeps every `state`-class register free of subnormals (R33, R256). -/
def Obligations.StateRegistersHoldNoSubnormal : Prop :=
  ∀ s t : State, s.flushed = true → step s = .next t → t.flushed = true

/-- While FLT.NF is 0 every `state`-class register is finite: a step keeps it so (R13, R239). -/
def Obligations.NonFiniteStateIsRecorded : Prop :=
  ∀ s t : State, s.finiteUntilNf = true → step s = .next t → t.finiteUntilNf = true

/-- A unit that no `RESET` has reached holds its power-on values but for parameters, GATE, FORM, ZV and BQ's loaded
coefficients: a step keeps it so (R53, R54). -/
def Obligations.UntouchedUnitsKeepPowerOnValues : Prop :=
  ∀ s t : State, s.untouched = true → step s = .next t → t.untouched = true

/-- The derived registers of every initialised unit but BQ and OSA are the function of the current parameters and SR
that their derivation gives: a step keeps it so (R51). OSA is left out because R200 skips the derivation for a change
between zeros (log 15). -/
def Obligations.CoefficientsFollowTheParameters : Prop :=
  ∀ s t : State, s.cached → step s = .next t → t.cached

/-- The power-on state meets the five invariants of Safety.lean: `flushed`, `finiteUntilNf`, `untouched`, `cached` and
`framed`. The last one, that every pending command is well framed, holds because the model's own lists of pending
commands are empty at reset (log 9), not by a rule of the spec. -/
def Obligations.InvariantsHoldAtPowerOn : Prop :=
  State.reset.flushed = true ∧ State.reset.finiteUntilNf = true ∧ State.reset.untouched = true ∧
  State.reset.cached ∧ State.reset.framed = true

/-- Two commands addressed to different units commute (R79, which derives it from R30 and R46): the same final state
and the same two responses, in either order. That the states are equal also where a result is a NaN rests on the
model's choice of one NaN draw counter for each unit (log 1). -/
def Obligations.CommandsOfDifferentUnitsCommute : Prop :=
  ∀ (i j : Instr) (u v : UnitId) (s : State), unitOf i = some u → unitOf j = some v → u ≠ v →
    ∃ (s1 s2 t : State) (ri rj : Response),
      exec i s = .next s1 ∧ exec j s = .next s2 ∧
      exec j s1 = .next { t with responses := rj :: ri :: s.responses } ∧
      exec i s2 = .next { t with responses := ri :: rj :: s.responses }

/-- NF is set only by `PROC.*`, `REND.*`, `RETRIG.*`, `RESET.OSN` and `RESET.OSA` (R231); plain writes never set it
(R239). -/
def Obligations.NfIsSetByTheListedCommandsOnly : Prop :=
  ∀ (i : Instr) (s t : State), exec i s = .next t → s.flt.getLsbD 3 = false → t.flt.getLsbD 3 = true →
    audioRate i = true ∨ i = .retrigOsn ∨ i = .retrigOsa ∨ (∃ sr, i = .resetOsn sr) ∨ ∃ sr, i = .resetOsa sr

/-- With every pending command framed as the interface frames it, a step answers a next state and leaves the rest
framed: every command terminates with a response (R85, R230, R257). -/
def Obligations.FramedRunsNeverStop : Prop :=
  ∀ s : State, s.framed = true → ∃ t, step s = .next t ∧ t.framed = true ∧
    t.audio.length + t.control.length = s.audio.length + s.control.length - 1

/-- No audio output word is a subnormal (R14, R256). -/
def Obligations.AudioOutputsAreNoSubnormals : Prop :=
  ∀ (i : Instr) (s t : State) (r : Response), audioRate i = true → exec i s = .next t →
    t.responses = r :: s.responses → ∀ w ∈ r.data, (f64 w).isSubnormal = false

/-- FLUSH (R12): every subnormal of either sign becomes +0.0, everything else passes unchanged. -/
def Obligations.FlushSnapsSubnormalsToZero : Prop :=
  ∀ v : F64, (v.expField = 0 → v.fracField ≠ 0 → v.flush = f64 0) ∧
    ((v.expField ≠ 0 ∨ v.fracField = 0) → v.flush = v)

/-- `a + b` and `a - b` on finite values are the exact sum and difference rounded once, to nearest, ties to even (R8).
The sign of a zero sum and the overflow threshold of `NearestEven` are IEEE 754's (log 17). -/
def Obligations.AdditionAndSubtractionRoundOnce : Prop :=
  ∀ nan a b : F64, a.finite = true → b.finite = true →
    NearestEven (F64.add nan a b) (((a.val : ℝ) / 2 ^ 1074) + ((b.val : ℝ) / 2 ^ 1074)) ∧
    NearestEven (F64.sub nan a b) (((a.val : ℝ) / 2 ^ 1074) - ((b.val : ℝ) / 2 ^ 1074)) ∧
    (a.val + b.val = 0 → F64.add nan a b = F64.zero (a.sign && b.sign))

/-- `a * b`, and `a / b` with b not zero, on finite values are the exact product and quotient rounded once, to
nearest, ties to even (R8). The sign of the result, also of a zero, and the overflow threshold of `NearestEven` are
IEEE 754's (log 17). -/
def Obligations.MultiplicationAndDivisionRoundOnce : Prop :=
  ∀ nan a b : F64, a.finite = true → b.finite = true →
    NearestEven (F64.mul nan a b) (((a.val : ℝ) / 2 ^ 1074) * ((b.val : ℝ) / 2 ^ 1074)) ∧
    (F64.mul nan a b).sign = (a.sign != b.sign) ∧
    (b.isZero = false → NearestEven (F64.div nan a b) (((a.val : ℝ) / 2 ^ 1074) / ((b.val : ℝ) / 2 ^ 1074)) ∧
      (F64.div nan a b).sign = (a.sign != b.sign))

/-- `SQRT(a)` of a finite value that is not negative is the real square root, correctly rounded (R15). -/
def Obligations.SquareRootIsCorrectlyRounded : Prop :=
  ∀ nan a : F64, a.finite = true → a.sign = false → NearestEven (F64.sqrt nan a) (Real.sqrt ((a.val : ℝ) / 2 ^ 1074))

/-- The results that involve no rounding: NaN operands, invalid operations, division by zero, `SQRT(-0)`, unary minus
and `abs` (R8, R10, R15). The signs of infinite and zero results, an infinity absorbing a finite operand and the root
of `+infinity` are IEEE 754's (log 17). -/
def Obligations.NanAndInfinityResults : Prop :=
  ∀ nan a b : F64,
    ((a.isNaN = true ∨ b.isNaN = true) →
      F64.add nan a b = nan ∧ F64.sub nan a b = nan ∧ F64.mul nan a b = nan ∧ F64.div nan a b = nan) ∧
    (a.isNaN = true → F64.sqrt nan a = nan) ∧
    (a.isInf = true → b.finite = true →
      F64.add nan a b = a ∧ F64.add nan b a = a ∧ F64.sub nan a b = a ∧ F64.sub nan b a = a.neg ∧
      F64.div nan a b = F64.inf (a.sign != b.sign) ∧ F64.div nan b a = F64.zero (a.sign != b.sign)) ∧
    (a.isInf = true → b.finite = true → b.isZero = false →
      F64.mul nan a b = F64.inf (a.sign != b.sign) ∧ F64.mul nan b a = F64.inf (a.sign != b.sign)) ∧
    (a.isInf = true → b.isZero = true → F64.mul nan a b = nan ∧ F64.mul nan b a = nan) ∧
    (a.isInf = true → b.isInf = true → F64.div nan a b = nan ∧ F64.mul nan a b = F64.inf (a.sign != b.sign)) ∧
    (a.isInf = true → b.isInf = true → a.sign = b.sign → F64.add nan a b = a ∧ F64.sub nan a b = nan) ∧
    (a.isInf = true → b.isInf = true → a.sign ≠ b.sign → F64.add nan a b = nan ∧ F64.sub nan a b = a) ∧
    (a.finite = true → a.isZero = false → b.isZero = true → F64.div nan a b = F64.inf (a.sign != b.sign)) ∧
    (a.isZero = true → b.isZero = true → F64.div nan a b = nan) ∧
    (a.isZero = true → F64.sqrt nan a = a) ∧
    (a.isNaN = false → a.isZero = false → a.sign = true → F64.sqrt nan a = nan) ∧
    (a.isInf = true → a.sign = false → F64.sqrt nan a = a) ∧
    a.neg.sign = !a.sign ∧ a.neg.magBits = a.magBits ∧ a.abs.sign = false ∧ a.abs.magBits = a.magBits

/-- The comparisons of R11 on non-NaN operands are those of the values, with `+0 == -0` and the infinities at the
ends; with a NaN all are false but `!=` (R10, R11). -/
def Obligations.ComparisonsFollowTheValues : Prop :=
  ∀ a b : F64,
    ((a.isNaN = true ∨ b.isNaN = true) →
      F64.lt a b = false ∧ F64.le a b = false ∧ F64.gt a b = false ∧ F64.ge a b = false ∧ F64.eq a b = false ∧
      F64.ne a b = true) ∧
    (a.finite = true → b.finite = true →
      (F64.lt a b = true ↔ a.val < b.val) ∧ (F64.le a b = true ↔ a.val ≤ b.val) ∧
      (F64.gt a b = true ↔ a.val > b.val) ∧ (F64.ge a b = true ↔ a.val ≥ b.val) ∧
      (F64.eq a b = true ↔ a.val = b.val) ∧ (F64.ne a b = true ↔ a.val ≠ b.val)) ∧
    (a.isInf = true → b.finite = true → F64.lt a b = a.sign ∧ F64.gt a b = !a.sign ∧ F64.eq a b = false) ∧
    (a.isInf = true → b.isInf = true → F64.eq a b = (a.sign == b.sign) ∧ F64.lt a b = (a.sign && !b.sign))

/-- The reduction of R154 for the ladders LLP and LHP: with K = +0.0 a ladder's `PROC` answers what four standalone
stages of its kind, with its gain and its states, answer in series. The premises: the command leaves NF at 0 (so every
value is finite) and the operand is not `-0.0`. SKH is not covered here: `SkhAtZeroResonanceFiltersTheSaturatedInput`.
-/
def Obligations.LadderAtZeroResonanceIsACascade : Prop :=
  ∀ (x : F64) (s t : State), x ≠ f64 0x8000000000000000 → s.flt.getLsbD 3 = false → t.flt.getLsbD 3 = false →
    (s.llp.init = true → s.llp.k = fZero → exec (.procLlp x) s = .next t →
      let z : F64 → State := fun v => { s with zlp := { s.zlp with gg := s.llp.gg, s := v, init := true } }
      ∃ (y1 y2 y3 y4 : F64) (t1 t2 t3 t4 : State),
        exec (.procZlp x) (z s.llp.s1) = .next t1 ∧ t1.responses = ⟨.ok, [bits64 y1]⟩ :: s.responses ∧
          t.llp.s1 = t1.zlp.s ∧
        exec (.procZlp y1) (z s.llp.s2) = .next t2 ∧ t2.responses = ⟨.ok, [bits64 y2]⟩ :: s.responses ∧
          t.llp.s2 = t2.zlp.s ∧
        exec (.procZlp y2) (z s.llp.s3) = .next t3 ∧ t3.responses = ⟨.ok, [bits64 y3]⟩ :: s.responses ∧
          t.llp.s3 = t3.zlp.s ∧
        exec (.procZlp y3) (z s.llp.s4) = .next t4 ∧ t4.responses = ⟨.ok, [bits64 y4]⟩ :: s.responses ∧
          t.llp.s4 = t4.zlp.s ∧
        t.responses = ⟨.ok, [bits64 y4]⟩ :: s.responses) ∧
    (s.lhp.init = true → s.lhp.k = fZero → exec (.procLhp x) s = .next t →
      let z : F64 → State := fun v => { s with zhp := { s.zhp with gg := s.lhp.gg, s := v, init := true } }
      ∃ (y1 y2 y3 y4 : F64) (t1 t2 t3 t4 : State),
        exec (.procZhp x) (z s.lhp.s1) = .next t1 ∧ t1.responses = ⟨.ok, [bits64 y1]⟩ :: s.responses ∧
          t.lhp.s1 = t1.zhp.s ∧
        exec (.procZhp y1) (z s.lhp.s2) = .next t2 ∧ t2.responses = ⟨.ok, [bits64 y2]⟩ :: s.responses ∧
          t.lhp.s2 = t2.zhp.s ∧
        exec (.procZhp y2) (z s.lhp.s3) = .next t3 ∧ t3.responses = ⟨.ok, [bits64 y3]⟩ :: s.responses ∧
          t.lhp.s3 = t3.zhp.s ∧
        exec (.procZhp y3) (z s.lhp.s4) = .next t4 ∧ t4.responses = ⟨.ok, [bits64 y4]⟩ :: s.responses ∧
          t.lhp.s4 = t4.zhp.s ∧
        t.responses = ⟨.ok, [bits64 y4]⟩ :: s.responses)

/-- The first sample after a transition (R185): Release and a retriggered Attack start from the sample before; Decay
starts at PEAK. -/
def Obligations.EnvelopeSegmentsStartWithoutAJump : Prop :=
  ∀ (s t t2 : State) (o w : F64), s.env.init = true →
    exec .rendEnv s = .next t → t.responses = ⟨.ok, [bits64 o]⟩ :: s.responses →
    exec .rendEnv t = .next t2 → t2.responses = ⟨.ok, [bits64 w]⟩ :: t.responses →
    ((s.env.st ≠ .release ∧ t.env.st = .release ∨ s.env.st = .release ∧ t.env.st = .attack) → o.finite = true →
      F64.eq w o = true) ∧
    (s.env.st = .attack → t.env.st = .decay → (∀ nan, (F64.mul nan t.env.sus cPeak).finite = true) → w = cPeak)

/-- One `REND.OSN` in the valid range: the counters of OSN are in [0,1) again and its three outputs in [-1,1] (R43,
R194). It speaks of this command only and INC is a premise, so it is no invariant of every step. -/
def Obligations.OsnPhaseStaysInTheUnitInterval : Prop :=
  ∀ s t : State, s.osn.init = true → exec .rendOsn s = .next t →
    (∀ v ∈ [s.osn.ph, s.osn.tph, s.osn.inc], F64.le fZero v = true ∧ F64.lt v fOne = true) →
    (∀ v ∈ [t.osn.ph, t.osn.tph], F64.le fZero v = true ∧ F64.lt v fOne = true) ∧
    ∃ saw tri pul : F64, t.responses = ⟨.ok, [bits64 saw, bits64 tri, bits64 pul]⟩ :: s.responses ∧
      ∀ v ∈ [saw, tri, pul], F64.le fNegOne v = true ∧ F64.le v fOne = true

/-- The reduction of R164(a), the Sallen-Key counterpart of the ladders' at K = 0: with K = +0.0 `PROC.SKH x` runs the
two stages of R131 on SAT(x), whatever SAT is (log 4). The premises say that `K*sigma` and `K*GM` are zeros, and leave
out a NaN operand and, as R154 does, `-0.0`. The sign of a zero difference is IEEE 754's (log 17). -/
def Obligations.SkhAtZeroResonanceFiltersTheSaturatedInput : Prop :=
  ∀ (x : F64) (s : State), s.skh.init = true → s.skh.k = fZero → x.isNaN = false → x ≠ f64 0x8000000000000000 →
    s.skh.gm.finite = true →
    (∀ n : Nat → F64, AllNaN n →
      (F64.sub (n 2) (F64.mul (n 0) s.skh.gm s.skh.s1) (F64.mul (n 1) s.skh.gg s.skh.s2)).finite = true) →
    ∃ (n : Nat → F64) (drawn : Nat), AllNaN n ∧
      let us := Config.sat x
      let y1 := (F64.mul (n 1) s.skh.gg (F64.sub (n 0) us s.skh.s1)).flush
      let t1 := F64.sub (n 2) us y1
      let s1 := (F64.sub (n 4) (F64.add (n 3) t1 t1) s.skh.s1).flush
      let y2 := (F64.mul (n 6) s.skh.gg (F64.sub (n 5) y1 s.skh.s2)).flush
      let t2 := F64.sub (n 7) y1 y2
      let s2 := (F64.sub (n 9) (F64.add (n 8) t2 t2) s.skh.s2).flush
      exec (.procSkh x) s = .next { s with
        skh := { s.skh with s1 := s1, s2 := s2 }, flt := s.flt ||| nfAny [s1, s2, y2]
        draws := s.draws.set .skh drawn, responses := ⟨.ok, [bits64 y2]⟩ :: s.responses }

end
end

