-- ==== Sys2Proof/Laws/Encoding.lean ====
section
/-! SUPPORT. Laws of the encoding: the fields of an encoded frame, the code tables, and the decode of an encoded row. -/

namespace Sys2Proof

/-- The command word of `mkFrame` as the concatenation it is, bit by bit. -/
theorem mkFrame_getLsbD (o : Op) (u : UnitId) (sub : BitVec 4) (idx : BitVec 8) (ops : List Word64) (k : Nat) :
    (mkFrame o u sub idx ops).cw.getLsbD k =
      if k < 8 then false
      else if k < 16 then idx.getLsbD (k - 8)
      else if k < 20 then sub.getLsbD (k - 16)
      else if k < 24 then u.code.getLsbD (k - 20)
      else o.code.getLsbD (k - 24) := by
  have h : (mkFrame o u sub idx ops).cw.getLsbD k =
      BitVec.getLsbD (w := 8 + 4 + 4 + 8 + 8) (o.code ++ u.code ++ sub ++ idx ++ (0x00 : BitVec 8)) k := rfl
  rw [h, BitVec.getLsbD_append, BitVec.getLsbD_append, BitVec.getLsbD_append, BitVec.getLsbD_append]
  repeat' split
  all_goals first
    | omega
    | simp
    | congr 1

/-- OPC of an encoded frame (R86, R88). -/
@[simp] theorem opcField_mkFrame (o : Op) (u : UnitId) (sub : BitVec 4) (idx : BitVec 8) (ops : List Word64) :
    opcField (mkFrame o u sub idx ops).cw = o.code := by
  apply BitVec.eq_of_getLsbD_eq
  intro k hk
  simp only [opcField, BitVec.getLsbD_extractLsb', mkFrame_getLsbD, hk, decide_true, Bool.true_and]
  rw [if_neg (by omega), if_neg (by omega), if_neg (by omega), if_neg (by omega)]
  congr 1
  omega

/-- UNIT of an encoded frame (R86, R87). -/
@[simp] theorem unitField_mkFrame (o : Op) (u : UnitId) (sub : BitVec 4) (idx : BitVec 8) (ops : List Word64) :
    unitField (mkFrame o u sub idx ops).cw = u.code := by
  apply BitVec.eq_of_getLsbD_eq
  intro k hk
  simp only [unitField, BitVec.getLsbD_extractLsb', mkFrame_getLsbD, hk, decide_true, Bool.true_and]
  rw [if_neg (by omega), if_neg (by omega), if_neg (by omega), if_pos (by omega)]
  congr 1
  omega

/-- SUB of an encoded frame (R86). -/
@[simp] theorem subField_mkFrame (o : Op) (u : UnitId) (sub : BitVec 4) (idx : BitVec 8) (ops : List Word64) :
    subField (mkFrame o u sub idx ops).cw = sub := by
  apply BitVec.eq_of_getLsbD_eq
  intro k hk
  simp only [subField, BitVec.getLsbD_extractLsb', mkFrame_getLsbD, hk, decide_true, Bool.true_and]
  rw [if_neg (by omega), if_neg (by omega), if_pos (by omega)]
  congr 1
  omega

/-- IDX of an encoded frame (R86). -/
@[simp] theorem idxField_mkFrame (o : Op) (u : UnitId) (sub : BitVec 4) (idx : BitVec 8) (ops : List Word64) :
    idxField (mkFrame o u sub idx ops).cw = idx := by
  apply BitVec.eq_of_getLsbD_eq
  intro k hk
  simp only [idxField, BitVec.getLsbD_extractLsb', mkFrame_getLsbD, hk, decide_true, Bool.true_and]
  rw [if_neg (by omega), if_pos (by omega)]
  congr 1
  omega

/-- ZERO of an encoded frame (R86). -/
@[simp] theorem zeroField_mkFrame (o : Op) (u : UnitId) (sub : BitVec 4) (idx : BitVec 8) (ops : List Word64) :
    zeroField (mkFrame o u sub idx ops).cw = 0 := by
  apply BitVec.eq_of_getLsbD_eq
  intro k hk
  simp only [zeroField, BitVec.getLsbD_extractLsb', mkFrame_getLsbD, hk, decide_true, Bool.true_and]
  rw [if_pos (by omega)]
  simp

/-- The code tables are injective and total on their codes (R87, R88; 10_state.md R37). -/
@[simp] theorem opOfCode_code (o : Op) : Op.ofCode o.code = some o := by cases o <;> rfl

@[simp] theorem unitOfCode_code (u : UnitId) : UnitId.ofCode u.code = some u := by cases u <;> rfl

@[simp] theorem formOfCode_code (f : Form) : Form.ofCode f.code = f := by cases f <;> rfl

/-- A command word that carries a row and immediates the row accepts decodes to them (R93). -/
theorem decodeHead_mkFrame (o : Op) (u : UnitId) (sub : BitVec 4) (idx : BitVec 8) (ops : List Word64)
    (h1 : (rowOperands o u).isSome = true) (h2 : immediateReject ⟨o, u, sub, idx⟩ = none) :
    decodeHead (mkFrame o u sub idx ops).cw = .ok ⟨o, u, sub, idx⟩ := by
  simp [decodeHead, decodeRow, h1, h2]

end Sys2Proof
end

