-- ==== Sys2Proof/Laws/Float.lean ====
section
/-! SUPPORT. Laws of the F64 arithmetic: the fields of a packed value, the NaN of a draw, sign flips, the flush, and the
operations that are exact: a rounding of a magnitude an F64 has, `0.0 * a`, `a - 0.0`, `a / 1.0`. -/

namespace Sys2Proof

theorem pack_toNat {neg : Bool} {m : Nat} (h : m < 2 ^ 63) :
    (F64.pack neg m).bits.toNat = m + if neg then 2 ^ 63 else 0 := by
  have : (m + if neg then 2 ^ 63 else 0) < 2 ^ 64 := by split <;> omega
  simpa [F64.pack] using this

theorem pack_expField {neg : Bool} {m : Nat} (h : m < 2 ^ 63) :
    (F64.pack neg m).expField = m / 2 ^ 52 := by
  unfold F64.expField
  rw [pack_toNat h]
  split <;> omega

theorem pack_fracField {neg : Bool} {m : Nat} (h : m < 2 ^ 63) :
    (F64.pack neg m).fracField = m % 2 ^ 52 := by
  unfold F64.fracField
  rw [pack_toNat h]
  split <;> omega

theorem pack_magBits {neg : Bool} {m : Nat} (h : m < 2 ^ 63) : (F64.pack neg m).magBits = m := by
  unfold F64.magBits
  rw [pack_toNat h]
  split <;> omega

theorem pack_sign {neg : Bool} {m : Nat} (h : m < 2 ^ 63) : (F64.pack neg m).sign = neg := by
  unfold F64.sign
  rw [BitVec.msb_eq_decide, pack_toNat h]
  cases neg
  · simp only [Bool.false_eq_true, if_false]; simp; omega
  · simp

/-- The two fields below the sign make up the number below the sign. -/
theorem magBits_eq (a : F64) : a.magBits = a.expField * 2 ^ 52 + a.fracField := by
  unfold F64.magBits F64.expField F64.fracField
  have := a.bits.isLt
  omega

theorem expField_lt (a : F64) : a.expField < 2048 := by
  unfold F64.expField
  omega

theorem fracField_lt (a : F64) : a.fracField < 2 ^ 52 := by
  unfold F64.fracField
  omega

theorem magBits_lt (a : F64) : a.magBits < 2 ^ 63 := by
  unfold F64.magBits
  omega

/-- An F64 is its sign and the number below it. -/
theorem pack_self (a : F64) : F64.pack a.sign a.magBits = a := by
  have h : (F64.pack a.sign a.magBits).bits.toNat = a.bits.toNat := by
    rw [pack_toNat (magBits_lt a)]
    have := a.bits.isLt
    unfold F64.sign F64.magBits
    rw [BitVec.msb_eq_decide]
    simp only [decide_eq_true_eq]
    split <;> omega
  cases a
  exact congrArg F64.mk (BitVec.eq_of_toNat_eq h)

/-- Whatever the draw, the value made of it is a NaN (R10). -/
theorem nanOf_isNaN (w : Word64) : (F64.nanOf w).isNaN = true := by
  have hf : w.toNat % 2 ^ 52 < 2 ^ 52 := Nat.mod_lt _ (by decide)
  unfold F64.nanOf F64.isNaN
  dsimp only
  split
  · rw [pack_expField (by omega), pack_fracField (by omega)]; decide
  · rw [pack_expField (by omega), pack_fracField (by omega)]
    simp only [Bool.and_eq_true, beq_iff_eq, bne_iff_ne]
    omega

/-- The NaN of every operation is a NaN (R10). -/
theorem nanAt_isNaN (u : UnitId) (n : Nat) : (Machine.nanAt u n).isNaN = true := nanOf_isNaN _

/-- Every NaN is the NaN of some draw: the model leaves none out (R10). -/
theorem nanOf_surjective (a : F64) (h : a.isNaN = true) : F64.nanOf a.bits = a := by
  unfold F64.isNaN at h
  simp only [Bool.and_eq_true, beq_iff_eq, bne_iff_ne] at h
  have hm := magBits_eq a
  unfold F64.nanOf
  dsimp only
  have hf : a.bits.toNat % 2 ^ 52 = a.fracField := rfl
  rw [hf, if_neg h.2]
  conv_rhs => rw [← pack_self a]
  rw [hm, h.1]
  rfl

theorem neg_toNat (a : F64) : a.neg.sign = !a.sign ∧ a.neg.magBits = a.magBits := by
  obtain ⟨b⟩ := a
  constructor
  · simp only [F64.neg, F64.sign, BitVec.msb_xor]
    cases b.msb <;> rfl
  · simp only [F64.neg, F64.magBits]
    have h : (b ^^^ 0x8000000000000000#64).setWidth 63 = b.setWidth 63 := by
      ext i hi
      simp only [BitVec.getElem_setWidth, BitVec.getLsbD_xor]
      have : (0x8000000000000000#64).getLsbD i = false := by
        have : ∀ j : Fin 63, (0x8000000000000000#64).getLsbD j = false := by decide
        exact this ⟨i, hi⟩
      simp [this]
    have ht := congrArg BitVec.toNat h
    rw [BitVec.toNat_setWidth, BitVec.toNat_setWidth] at ht
    exact ht

theorem abs_fields (a : F64) : a.abs.sign = false ∧ a.abs.magBits = a.magBits := by
  obtain ⟨b⟩ := a
  constructor
  · simp only [F64.abs, F64.sign, BitVec.msb_and]
    have : (0x7FFFFFFFFFFFFFFF#64).msb = false := by decide
    simp [this]
  · simp only [F64.abs, F64.magBits]
    have h : (b &&& 0x7FFFFFFFFFFFFFFF#64).setWidth 63 = b.setWidth 63 := by
      ext i hi
      simp only [BitVec.getElem_setWidth, BitVec.getLsbD_and]
      have : (0x7FFFFFFFFFFFFFFF#64).getLsbD i = true := by
        have : ∀ j : Fin 63, (0x7FFFFFFFFFFFFFFF#64).getLsbD j = true := by decide
        exact this ⟨i, hi⟩
      simp [this]
    have ht := congrArg BitVec.toNat h
    rw [BitVec.toNat_setWidth, BitVec.toNat_setWidth] at ht
    exact ht

/-- Two values with the same number below the sign have the same fields. -/
theorem fields_of_magBits {a b : F64} (h : a.magBits = b.magBits) :
    a.expField = b.expField ∧ a.fracField = b.fracField := by
  have ha := magBits_eq a
  have hb := magBits_eq b
  have := fracField_lt a
  have := fracField_lt b
  omega

/-- The flush in the plain words of R12: every subnormal becomes `+0.0`, everything else passes. -/
theorem flush_eq (v : F64) : v.flush = if v.isSubnormal then F64.zero false else v := by
  obtain ⟨hs, hm⟩ := abs_fields v
  obtain ⟨he, hf⟩ := fields_of_magBits hm
  have hz : (F64.zero false).rank = 0 := by decide
  have hzn : (F64.zero false).isNaN = false := by decide
  have hq : Config.flushMin.rank = 2 ^ 52 := by decide
  have hqn : Config.flushMin.isNaN = false := by decide
  have hv := magBits_eq v
  have hlt := fracField_lt v
  have hrank : v.abs.rank = v.magBits := by unfold F64.rank; rw [hs, hm]; rfl
  have hzero : decide (v.rank = 0) = decide (v.magBits = 0) := by
    unfold F64.rank
    cases v.sign <;> simp
  unfold F64.flush F64.ne F64.eq F64.lt
  rw [hz, hzn, hq, hqn, hrank, hzero]
  have hnan : v.abs.isNaN = v.isNaN := by unfold F64.isNaN; rw [he, hf]
  rw [hnan]
  unfold F64.isNaN F64.isSubnormal
  rcases Nat.eq_zero_or_pos v.expField with h0 | h0
  · by_cases h1 : v.fracField = 0
    · simp [h0, h1] at hv ⊢
      simp [hv]
    · have hlow : ((v.magBits : Int) < 2 ^ 52) := by omega
      rw [decide_eq_true hlow]
      simp [h0, h1]
      omega
  · have hge : ¬ ((v.magBits : Int) < 2 ^ 52) := by omega
    have hne : (v.expField == 0) = false := by simpa using Nat.ne_of_gt h0
    rw [decide_eq_false hge, hne]
    simp

/-- A flushed value is no subnormal (R12, R256). -/
@[simp] theorem flush_isSubnormal (v : F64) : v.flush.isSubnormal = false := by
  rw [flush_eq]
  split
  · decide
  · simpa using ‹¬ v.isSubnormal = true›

/-- "FLUSH is idempotent" (R131). -/
@[simp] theorem flush_flush (v : F64) : v.flush.flush = v.flush := by
  rw [flush_eq v.flush, flush_isSubnormal]
  rfl

/-- The flush changes no NaN and no infinity (R12). -/
@[simp] theorem flush_finite (v : F64) : v.flush.finite = v.finite := by
  rw [flush_eq]
  split
  · next h =>
    unfold F64.isSubnormal at h
    simp only [Bool.and_eq_true, beq_iff_eq] at h
    have : v.finite = true := by unfold F64.finite; rw [h.1]; rfl
    rw [this]; decide
  · rfl

/-- A common factor of numerator and denominator does not change a rounding. -/
theorem round_scale (neg : Bool) (m d : Nat) (hd : 0 < d) : F64.round neg (m * d) d = F64.round neg m 1 := by
  have h1 : m * d / d = m := Nat.mul_div_cancel m hd
  have h2 (e : Nat) : F64.nearestEven (m * d) d e = F64.nearestEven m 1 e := by
    have h3 : m * d / (d * 2 ^ e) = m / 2 ^ e := by rw [Nat.mul_comm m d, Nat.mul_div_mul_left _ _ hd]
    have h4 : m * d % (d * 2 ^ e) = d * (m % 2 ^ e) := by rw [Nat.mul_comm m d, Nat.mul_mod_mul_left]
    have h5 : (d * 2 ^ e < 2 * (d * (m % 2 ^ e))) = (2 ^ e < 2 * (m % 2 ^ e)) := by
      rw [Nat.mul_left_comm]
      exact propext (Nat.mul_lt_mul_left hd)
    have h6 : (2 * (d * (m % 2 ^ e)) = d * 2 ^ e) = (2 * (m % 2 ^ e) = 2 ^ e) := by
      rw [Nat.mul_left_comm]
      exact propext (Nat.mul_right_inj (Nat.ne_of_gt hd))
    unfold F64.nearestEven
    simp only [h3, h4, h5, h6, Nat.one_mul, Bool.beq_eq_decide_eq]
  unfold F64.round F64.lastPlace
  rw [h1, Nat.div_one]
  simp only [h2]

/-- A magnitude that an F64 has is rounded to itself. -/
theorem round_mag (neg : Bool) (a : F64) (h : a.finite = true) : F64.round neg a.mag 1 = F64.pack neg a.magBits := by
  have he : a.expField < 2047 := by
    have := expField_lt a
    unfold F64.finite at h
    simp only [bne_iff_ne, ne_eq] at h
    omega
  have hf := fracField_lt a
  have hm := magBits_eq a
  have hq (n e : Nat) : F64.nearestEven (n * 2 ^ e) 1 e = n := by
    have hp : 0 < 2 ^ e := Nat.pos_of_ne_zero (by simp)
    unfold F64.nearestEven
    simp only [Nat.one_mul, Nat.mul_div_cancel n hp, Nat.mul_mod_left, Nat.mul_zero, Nat.not_lt_zero, decide_false]
    rw [show ((0 : Nat) == 2 ^ e) = false from by simpa using Nat.ne_of_lt hp]
    simp
  have key : ∃ e n, F64.lastPlace a.mag 1 = e ∧ a.mag = n * 2 ^ e ∧ a.magBits = e * 2 ^ 52 + n := by
    unfold F64.lastPlace F64.mag
    rw [Nat.div_one]
    split
    · next h0 =>
      refine ⟨0, a.fracField, ?_, (Nat.mul_one _).symm, by rw [hm, h0]⟩
      rcases Nat.eq_zero_or_pos a.fracField with hz | hz
      · rw [hz]; decide
      · have : Nat.log2 a.fracField < 52 := (Nat.log2_lt (Nat.ne_of_gt hz)).2 hf
        omega
    · next h0 =>
      have hs : a.magBits = (a.expField - 1) * 2 ^ 52 + (2 ^ 52 + a.fracField) := by
        obtain ⟨k, hk⟩ := Nat.exists_eq_succ_of_ne_zero h0
        rw [hm, hk, Nat.succ_sub_one, Nat.succ_mul, Nat.add_assoc]
      refine ⟨a.expField - 1, 2 ^ 52 + a.fracField, ?_, rfl, hs⟩
      have hpos : (2 ^ 52 + a.fracField) * 2 ^ (a.expField - 1) ≠ 0 :=
        Nat.mul_ne_zero (by omega) (by simp)
      have hlog : Nat.log2 ((2 ^ 52 + a.fracField) * 2 ^ (a.expField - 1)) = 52 + (a.expField - 1) := by
        rw [Nat.log2_eq_iff hpos]
        constructor
        · rw [Nat.pow_add]
          exact Nat.mul_le_mul_right _ (by omega)
        · rw [show 52 + (a.expField - 1) + 1 = 53 + (a.expField - 1) by omega, Nat.pow_add 2 53]
          exact Nat.mul_lt_mul_of_pos_right (by omega) (Nat.pos_of_ne_zero (by simp))
      rw [hlog]
      omega
  obtain ⟨e, n, h1, h2, h3⟩ := key
  have hlt : a.magBits ≤ 2047 * 2 ^ 52 := by omega
  unfold F64.round
  simp only [h1]
  rw [h2, hq, ← h3, Nat.min_eq_left hlt]

theorem val_natAbs (a : F64) : a.val.natAbs = a.mag := by
  unfold F64.val
  split <;> simp

theorem mag_eq_zero (a : F64) : a.mag = 0 ↔ a.magBits = 0 := by
  have hm := magBits_eq a
  unfold F64.mag
  split
  · omega
  · have : 0 < 2 ^ (a.expField - 1) := Nat.pos_of_ne_zero (by simp)
    constructor
    · intro h
      exact absurd h (Nat.mul_ne_zero (by omega) (by omega))
    · omega

theorem finite_not_special {a : F64} (h : a.finite = true) : a.isNaN = false ∧ a.isInf = false := by
  unfold F64.finite at h
  simp only [bne_iff_ne, ne_eq] at h
  unfold F64.isNaN F64.isInf
  simp [h]

/-- `+0.0 * a` of a finite `a` is a zero with the sign of `a` (R8). -/
theorem f64_mul_posZero (nan a : F64) (h : a.finite = true) : F64.mul nan (F64.zero false) a = F64.zero a.sign := by
  obtain ⟨h1, h2⟩ := finite_not_special h
  have h3 : (F64.zero false).isNaN = false := by decide
  have h4 : (F64.zero false).isInf = false := by decide
  have h5 : (F64.zero false).mag = 0 := by decide
  have h6 : (F64.zero false).sign = false := by decide
  have h7 (b : Bool) : F64.round b 0 (2 ^ 1074) = F64.zero b := by cases b <;> decide +kernel
  unfold F64.mul
  rw [h1, h2, h3, h4, h5, h6, Nat.zero_mul, if_neg (by decide), if_neg (by decide), h7]
  cases a.sign <;> rfl

/-- Taking a zero of either sign from an operand other than `-0.0` leaves it (R8). -/
theorem f64_sub_zero (nan x : F64) (b : Bool) (hn : x.isNaN = false) (hx : x ≠ F64.zero true) :
    F64.sub nan x (F64.zero b) = x := by
  have hz : (F64.zero b).neg = F64.zero (!b) := by cases b <;> decide
  have h1 : (F64.zero !b).isNaN = false := by cases b <;> decide
  have h2 : (F64.zero !b).isInf = false := by cases b <;> decide
  have h3 : (F64.zero !b).val = 0 := by cases b <;> decide
  have h4 : (F64.zero !b).sign = !b := by cases b <;> decide
  unfold F64.sub F64.add
  rw [hz, hn, h1, h2, if_neg (by decide)]
  by_cases hi : x.isInf = true
  · rw [if_pos hi, Bool.false_and, if_neg (by decide)]
  rw [if_neg hi, if_neg (by decide)]
  have hfin : x.finite = true := by
    unfold F64.isNaN at hn
    unfold F64.isInf at hi
    unfold F64.finite
    by_cases hq : x.expField = 2047
    · simp_all
    · simpa using hq
  unfold F64.addFinite
  simp only [h3, Int.add_zero, h4]
  have hs := pack_self x
  by_cases hv : x.val = 0
  · have hm : x.magBits = 0 := by
      rw [← mag_eq_zero, ← val_natAbs, hv]; rfl
    rw [hm] at hs
    have hp : x.sign = false := by
      cases h : x.sign
      · rfl
      · rw [h] at hs; exact absurd hs.symm hx
    rw [if_pos hv, hp, Bool.false_and]
    rw [hp] at hs
    exact hs
  · rw [if_neg hv, val_natAbs, round_mag _ _ hfin]
    have : decide (x.val < 0) = x.sign := by
      unfold F64.val at hv ⊢
      cases h : x.sign
      · simp
      · simp [h] at hv ⊢
        omega
    rw [this, hs]

/-- `a / 1.0` is `a` (R8). -/
theorem f64_div_one (nan x : F64) (hn : x.isNaN = false) : F64.div nan x (f64 0x3FF0000000000000) = x := by
  have h1 : (f64 0x3FF0000000000000).isNaN = false := by decide
  have h2 : (f64 0x3FF0000000000000).isInf = false := by decide
  have h3 : (f64 0x3FF0000000000000).isZero = false := by decide
  have h4 : (f64 0x3FF0000000000000).mag = 2 ^ 1074 := by decide +kernel
  have h5 : (f64 0x3FF0000000000000).sign = false := by decide
  unfold F64.div
  rw [hn, h1, h2, h3, h4, h5, if_neg (by decide)]
  have hb : (x.sign != false) = x.sign := by cases x.sign <;> rfl
  simp only [hb]
  by_cases hi : x.isInf = true
  · rw [if_pos hi, if_neg (by decide)]
    conv_rhs => rw [← pack_self x]
    have hm := magBits_eq x
    unfold F64.isInf at hi
    simp only [Bool.and_eq_true, beq_iff_eq] at hi
    rw [hm, hi.1, hi.2]
    rfl
  · have hfin : x.finite = true := by
      unfold F64.isNaN at hn
      unfold F64.isInf at hi
      unfold F64.finite
      by_cases hq : x.expField = 2047
      · simp_all
      · simpa using hq
    rw [if_neg hi, if_neg (by decide), if_neg (by decide), round_scale _ _ _ (Nat.two_pow_pos _),
      round_mag _ _ hfin, pack_self]

end Sys2Proof
end

