-- ==== Sys2Proof/Laws/Flags.lean ====
section
/-! SUPPORT. Laws of the FLT bits: what a list of stored and returned values sets, and what the flags of a refusal are. -/

namespace Sys2Proof.Machine

@[simp] theorem nfAny_nil : nfAny [] = 0 := rfl

/-- The NF bit of a list is the OR of the bits its values set one by one (R239: "setting is idempotent"). -/
theorem nfAny_cons (v : F64) (vs : List F64) : nfAny (v :: vs) = nfFlag v ||| nfAny vs := by
  unfold nfAny nfFlag fltNf
  rw [List.all_cons]
  cases v.finite <;> cases vs.all F64.finite <;> decide

/-- A value sets NF only if it is not finite. -/
theorem nfFlag_of_finite {v : F64} (h : v.finite = true) : nfFlag v = 0 := by
  unfold nfFlag
  rw [if_pos h]

/-- A value that sets no NF bit is finite. -/
theorem finite_of_nfFlag {v : F64} (h : (nfFlag v).getLsbD 3 = false) : v.finite = true := by
  unfold nfFlag at h
  split at h
  · assumption
  · exact absurd h (by decide)

/-- The flush does not change whether a value sets NF (R12, R13). -/
@[simp] theorem nfFlag_flush (v : F64) : nfFlag v.flush = nfFlag v := by
  unfold nfFlag
  rw [flush_finite]

end Sys2Proof.Machine
end

