-- ==== Sys2Proof/Laws/State.lean ====
section
/-! SUPPORT. One lemma for each field under each update of the state, true by computation, so that no proof unfolds a record
update: `respond`, `refuse`, `present` and `run` on each unit's slot. -/

namespace Sys2Proof.Machine

@[simp] theorem respond_bq (data : List Word64) (s : State) : (s.respond data).bq = s.bq := rfl
@[simp] theorem respond_zlp (data : List Word64) (s : State) : (s.respond data).zlp = s.zlp := rfl
@[simp] theorem respond_zhp (data : List Word64) (s : State) : (s.respond data).zhp = s.zhp := rfl
@[simp] theorem respond_llp (data : List Word64) (s : State) : (s.respond data).llp = s.llp := rfl
@[simp] theorem respond_lhp (data : List Word64) (s : State) : (s.respond data).lhp = s.lhp := rfl
@[simp] theorem respond_skh (data : List Word64) (s : State) : (s.respond data).skh = s.skh := rfl
@[simp] theorem respond_env (data : List Word64) (s : State) : (s.respond data).env = s.env := rfl
@[simp] theorem respond_osn (data : List Word64) (s : State) : (s.respond data).osn = s.osn := rfl
@[simp] theorem respond_osa (data : List Word64) (s : State) : (s.respond data).osa = s.osa := rfl
@[simp] theorem respond_flt (data : List Word64) (s : State) : (s.respond data).flt = s.flt := rfl
@[simp] theorem respond_audio (data : List Word64) (s : State) : (s.respond data).audio = s.audio := rfl
@[simp] theorem respond_control (data : List Word64) (s : State) : (s.respond data).control = s.control := rfl
@[simp] theorem respond_merges (data : List Word64) (s : State) : (s.respond data).merges = s.merges := rfl
@[simp] theorem respond_draws (data : List Word64) (s : State) : (s.respond data).draws = s.draws := rfl
@[simp] theorem respond_responses (data : List Word64) (s : State) : (s.respond data).responses = ⟨.ok, data⟩ :: s.responses := rfl

@[simp] theorem refuse_bq (code : Status) (s : State) : (s.refuse code).bq = s.bq := rfl
@[simp] theorem refuse_zlp (code : Status) (s : State) : (s.refuse code).zlp = s.zlp := rfl
@[simp] theorem refuse_zhp (code : Status) (s : State) : (s.refuse code).zhp = s.zhp := rfl
@[simp] theorem refuse_llp (code : Status) (s : State) : (s.refuse code).llp = s.llp := rfl
@[simp] theorem refuse_lhp (code : Status) (s : State) : (s.refuse code).lhp = s.lhp := rfl
@[simp] theorem refuse_skh (code : Status) (s : State) : (s.refuse code).skh = s.skh := rfl
@[simp] theorem refuse_env (code : Status) (s : State) : (s.refuse code).env = s.env := rfl
@[simp] theorem refuse_osn (code : Status) (s : State) : (s.refuse code).osn = s.osn := rfl
@[simp] theorem refuse_osa (code : Status) (s : State) : (s.refuse code).osa = s.osa := rfl
@[simp] theorem refuse_flt (code : Status) (s : State) : (s.refuse code).flt = s.flt ||| code.flag := rfl
@[simp] theorem refuse_audio (code : Status) (s : State) : (s.refuse code).audio = s.audio := rfl
@[simp] theorem refuse_control (code : Status) (s : State) : (s.refuse code).control = s.control := rfl
@[simp] theorem refuse_merges (code : Status) (s : State) : (s.refuse code).merges = s.merges := rfl
@[simp] theorem refuse_draws (code : Status) (s : State) : (s.refuse code).draws = s.draws := rfl
@[simp] theorem refuse_responses (code : Status) (s : State) : (s.refuse code).responses = ⟨code, []⟩ :: s.responses := rfl

@[simp] theorem present_bq (f : Frame) (s : State) : (s.present f).bq = s.bq := rfl
@[simp] theorem present_zlp (f : Frame) (s : State) : (s.present f).zlp = s.zlp := rfl
@[simp] theorem present_zhp (f : Frame) (s : State) : (s.present f).zhp = s.zhp := rfl
@[simp] theorem present_llp (f : Frame) (s : State) : (s.present f).llp = s.llp := rfl
@[simp] theorem present_lhp (f : Frame) (s : State) : (s.present f).lhp = s.lhp := rfl
@[simp] theorem present_skh (f : Frame) (s : State) : (s.present f).skh = s.skh := rfl
@[simp] theorem present_env (f : Frame) (s : State) : (s.present f).env = s.env := rfl
@[simp] theorem present_osn (f : Frame) (s : State) : (s.present f).osn = s.osn := rfl
@[simp] theorem present_osa (f : Frame) (s : State) : (s.present f).osa = s.osa := rfl
@[simp] theorem present_flt (f : Frame) (s : State) : (s.present f).flt = s.flt := rfl
@[simp] theorem present_audio (f : Frame) (s : State) : (s.present f).audio = [f] := rfl
@[simp] theorem present_control (f : Frame) (s : State) : (s.present f).control = [] := rfl
@[simp] theorem present_merges (f : Frame) (s : State) : (s.present f).merges = s.merges := rfl
@[simp] theorem present_draws (f : Frame) (s : State) : (s.present f).draws = s.draws := rfl
@[simp] theorem present_responses (f : Frame) (s : State) : (s.present f).responses = s.responses := rfl

/-- What a rule of BQ computes from a state: its data words and the unit after it. -/
def outBq (c : Calc Bq (List Word64)) (s : State) : List Word64 × Work Bq := c ⟨.bq, s.bq, s.draws.bq, 0⟩

@[simp] theorem runBq_bq (c : Calc Bq (List Word64)) (s : State) : (s.run slotBq c).bq = (outBq c s).2.regs := rfl
@[simp] theorem runBq_zlp (c : Calc Bq (List Word64)) (s : State) : (s.run slotBq c).zlp = s.zlp := rfl
@[simp] theorem runBq_zhp (c : Calc Bq (List Word64)) (s : State) : (s.run slotBq c).zhp = s.zhp := rfl
@[simp] theorem runBq_llp (c : Calc Bq (List Word64)) (s : State) : (s.run slotBq c).llp = s.llp := rfl
@[simp] theorem runBq_lhp (c : Calc Bq (List Word64)) (s : State) : (s.run slotBq c).lhp = s.lhp := rfl
@[simp] theorem runBq_skh (c : Calc Bq (List Word64)) (s : State) : (s.run slotBq c).skh = s.skh := rfl
@[simp] theorem runBq_env (c : Calc Bq (List Word64)) (s : State) : (s.run slotBq c).env = s.env := rfl
@[simp] theorem runBq_osn (c : Calc Bq (List Word64)) (s : State) : (s.run slotBq c).osn = s.osn := rfl
@[simp] theorem runBq_osa (c : Calc Bq (List Word64)) (s : State) : (s.run slotBq c).osa = s.osa := rfl
@[simp] theorem runBq_flt (c : Calc Bq (List Word64)) (s : State) : (s.run slotBq c).flt = s.flt ||| (outBq c s).2.flags := rfl
@[simp] theorem runBq_audio (c : Calc Bq (List Word64)) (s : State) : (s.run slotBq c).audio = s.audio := rfl
@[simp] theorem runBq_control (c : Calc Bq (List Word64)) (s : State) : (s.run slotBq c).control = s.control := rfl
@[simp] theorem runBq_merges (c : Calc Bq (List Word64)) (s : State) : (s.run slotBq c).merges = s.merges := rfl
@[simp] theorem runBq_draws (c : Calc Bq (List Word64)) (s : State) : (s.run slotBq c).draws = s.draws.set .bq (outBq c s).2.draws := rfl
@[simp] theorem runBq_responses (c : Calc Bq (List Word64)) (s : State) : (s.run slotBq c).responses = ⟨.ok, (outBq c s).1⟩ :: s.responses := rfl

/-- What a rule of ZLP computes from a state: its data words and the unit after it. -/
def outZlp (c : Calc Zdf (List Word64)) (s : State) : List Word64 × Work Zdf := c ⟨.zlp, s.zlp, s.draws.zlp, 0⟩

@[simp] theorem runZlp_bq (c : Calc Zdf (List Word64)) (s : State) : (s.run slotZlp c).bq = s.bq := rfl
@[simp] theorem runZlp_zlp (c : Calc Zdf (List Word64)) (s : State) : (s.run slotZlp c).zlp = (outZlp c s).2.regs := rfl
@[simp] theorem runZlp_zhp (c : Calc Zdf (List Word64)) (s : State) : (s.run slotZlp c).zhp = s.zhp := rfl
@[simp] theorem runZlp_llp (c : Calc Zdf (List Word64)) (s : State) : (s.run slotZlp c).llp = s.llp := rfl
@[simp] theorem runZlp_lhp (c : Calc Zdf (List Word64)) (s : State) : (s.run slotZlp c).lhp = s.lhp := rfl
@[simp] theorem runZlp_skh (c : Calc Zdf (List Word64)) (s : State) : (s.run slotZlp c).skh = s.skh := rfl
@[simp] theorem runZlp_env (c : Calc Zdf (List Word64)) (s : State) : (s.run slotZlp c).env = s.env := rfl
@[simp] theorem runZlp_osn (c : Calc Zdf (List Word64)) (s : State) : (s.run slotZlp c).osn = s.osn := rfl
@[simp] theorem runZlp_osa (c : Calc Zdf (List Word64)) (s : State) : (s.run slotZlp c).osa = s.osa := rfl
@[simp] theorem runZlp_flt (c : Calc Zdf (List Word64)) (s : State) : (s.run slotZlp c).flt = s.flt ||| (outZlp c s).2.flags := rfl
@[simp] theorem runZlp_audio (c : Calc Zdf (List Word64)) (s : State) : (s.run slotZlp c).audio = s.audio := rfl
@[simp] theorem runZlp_control (c : Calc Zdf (List Word64)) (s : State) : (s.run slotZlp c).control = s.control := rfl
@[simp] theorem runZlp_merges (c : Calc Zdf (List Word64)) (s : State) : (s.run slotZlp c).merges = s.merges := rfl
@[simp] theorem runZlp_draws (c : Calc Zdf (List Word64)) (s : State) : (s.run slotZlp c).draws = s.draws.set .zlp (outZlp c s).2.draws := rfl
@[simp] theorem runZlp_responses (c : Calc Zdf (List Word64)) (s : State) : (s.run slotZlp c).responses = ⟨.ok, (outZlp c s).1⟩ :: s.responses := rfl

/-- What a rule of ZHP computes from a state: its data words and the unit after it. -/
def outZhp (c : Calc Zdf (List Word64)) (s : State) : List Word64 × Work Zdf := c ⟨.zhp, s.zhp, s.draws.zhp, 0⟩

@[simp] theorem runZhp_bq (c : Calc Zdf (List Word64)) (s : State) : (s.run slotZhp c).bq = s.bq := rfl
@[simp] theorem runZhp_zlp (c : Calc Zdf (List Word64)) (s : State) : (s.run slotZhp c).zlp = s.zlp := rfl
@[simp] theorem runZhp_zhp (c : Calc Zdf (List Word64)) (s : State) : (s.run slotZhp c).zhp = (outZhp c s).2.regs := rfl
@[simp] theorem runZhp_llp (c : Calc Zdf (List Word64)) (s : State) : (s.run slotZhp c).llp = s.llp := rfl
@[simp] theorem runZhp_lhp (c : Calc Zdf (List Word64)) (s : State) : (s.run slotZhp c).lhp = s.lhp := rfl
@[simp] theorem runZhp_skh (c : Calc Zdf (List Word64)) (s : State) : (s.run slotZhp c).skh = s.skh := rfl
@[simp] theorem runZhp_env (c : Calc Zdf (List Word64)) (s : State) : (s.run slotZhp c).env = s.env := rfl
@[simp] theorem runZhp_osn (c : Calc Zdf (List Word64)) (s : State) : (s.run slotZhp c).osn = s.osn := rfl
@[simp] theorem runZhp_osa (c : Calc Zdf (List Word64)) (s : State) : (s.run slotZhp c).osa = s.osa := rfl
@[simp] theorem runZhp_flt (c : Calc Zdf (List Word64)) (s : State) : (s.run slotZhp c).flt = s.flt ||| (outZhp c s).2.flags := rfl
@[simp] theorem runZhp_audio (c : Calc Zdf (List Word64)) (s : State) : (s.run slotZhp c).audio = s.audio := rfl
@[simp] theorem runZhp_control (c : Calc Zdf (List Word64)) (s : State) : (s.run slotZhp c).control = s.control := rfl
@[simp] theorem runZhp_merges (c : Calc Zdf (List Word64)) (s : State) : (s.run slotZhp c).merges = s.merges := rfl
@[simp] theorem runZhp_draws (c : Calc Zdf (List Word64)) (s : State) : (s.run slotZhp c).draws = s.draws.set .zhp (outZhp c s).2.draws := rfl
@[simp] theorem runZhp_responses (c : Calc Zdf (List Word64)) (s : State) : (s.run slotZhp c).responses = ⟨.ok, (outZhp c s).1⟩ :: s.responses := rfl

/-- What a rule of LLP computes from a state: its data words and the unit after it. -/
def outLlp (c : Calc Ladder (List Word64)) (s : State) : List Word64 × Work Ladder := c ⟨.llp, s.llp, s.draws.llp, 0⟩

@[simp] theorem runLlp_bq (c : Calc Ladder (List Word64)) (s : State) : (s.run slotLlp c).bq = s.bq := rfl
@[simp] theorem runLlp_zlp (c : Calc Ladder (List Word64)) (s : State) : (s.run slotLlp c).zlp = s.zlp := rfl
@[simp] theorem runLlp_zhp (c : Calc Ladder (List Word64)) (s : State) : (s.run slotLlp c).zhp = s.zhp := rfl
@[simp] theorem runLlp_llp (c : Calc Ladder (List Word64)) (s : State) : (s.run slotLlp c).llp = (outLlp c s).2.regs := rfl
@[simp] theorem runLlp_lhp (c : Calc Ladder (List Word64)) (s : State) : (s.run slotLlp c).lhp = s.lhp := rfl
@[simp] theorem runLlp_skh (c : Calc Ladder (List Word64)) (s : State) : (s.run slotLlp c).skh = s.skh := rfl
@[simp] theorem runLlp_env (c : Calc Ladder (List Word64)) (s : State) : (s.run slotLlp c).env = s.env := rfl
@[simp] theorem runLlp_osn (c : Calc Ladder (List Word64)) (s : State) : (s.run slotLlp c).osn = s.osn := rfl
@[simp] theorem runLlp_osa (c : Calc Ladder (List Word64)) (s : State) : (s.run slotLlp c).osa = s.osa := rfl
@[simp] theorem runLlp_flt (c : Calc Ladder (List Word64)) (s : State) : (s.run slotLlp c).flt = s.flt ||| (outLlp c s).2.flags := rfl
@[simp] theorem runLlp_audio (c : Calc Ladder (List Word64)) (s : State) : (s.run slotLlp c).audio = s.audio := rfl
@[simp] theorem runLlp_control (c : Calc Ladder (List Word64)) (s : State) : (s.run slotLlp c).control = s.control := rfl
@[simp] theorem runLlp_merges (c : Calc Ladder (List Word64)) (s : State) : (s.run slotLlp c).merges = s.merges := rfl
@[simp] theorem runLlp_draws (c : Calc Ladder (List Word64)) (s : State) : (s.run slotLlp c).draws = s.draws.set .llp (outLlp c s).2.draws := rfl
@[simp] theorem runLlp_responses (c : Calc Ladder (List Word64)) (s : State) : (s.run slotLlp c).responses = ⟨.ok, (outLlp c s).1⟩ :: s.responses := rfl

/-- What a rule of LHP computes from a state: its data words and the unit after it. -/
def outLhp (c : Calc Ladder (List Word64)) (s : State) : List Word64 × Work Ladder := c ⟨.lhp, s.lhp, s.draws.lhp, 0⟩

@[simp] theorem runLhp_bq (c : Calc Ladder (List Word64)) (s : State) : (s.run slotLhp c).bq = s.bq := rfl
@[simp] theorem runLhp_zlp (c : Calc Ladder (List Word64)) (s : State) : (s.run slotLhp c).zlp = s.zlp := rfl
@[simp] theorem runLhp_zhp (c : Calc Ladder (List Word64)) (s : State) : (s.run slotLhp c).zhp = s.zhp := rfl
@[simp] theorem runLhp_llp (c : Calc Ladder (List Word64)) (s : State) : (s.run slotLhp c).llp = s.llp := rfl
@[simp] theorem runLhp_lhp (c : Calc Ladder (List Word64)) (s : State) : (s.run slotLhp c).lhp = (outLhp c s).2.regs := rfl
@[simp] theorem runLhp_skh (c : Calc Ladder (List Word64)) (s : State) : (s.run slotLhp c).skh = s.skh := rfl
@[simp] theorem runLhp_env (c : Calc Ladder (List Word64)) (s : State) : (s.run slotLhp c).env = s.env := rfl
@[simp] theorem runLhp_osn (c : Calc Ladder (List Word64)) (s : State) : (s.run slotLhp c).osn = s.osn := rfl
@[simp] theorem runLhp_osa (c : Calc Ladder (List Word64)) (s : State) : (s.run slotLhp c).osa = s.osa := rfl
@[simp] theorem runLhp_flt (c : Calc Ladder (List Word64)) (s : State) : (s.run slotLhp c).flt = s.flt ||| (outLhp c s).2.flags := rfl
@[simp] theorem runLhp_audio (c : Calc Ladder (List Word64)) (s : State) : (s.run slotLhp c).audio = s.audio := rfl
@[simp] theorem runLhp_control (c : Calc Ladder (List Word64)) (s : State) : (s.run slotLhp c).control = s.control := rfl
@[simp] theorem runLhp_merges (c : Calc Ladder (List Word64)) (s : State) : (s.run slotLhp c).merges = s.merges := rfl
@[simp] theorem runLhp_draws (c : Calc Ladder (List Word64)) (s : State) : (s.run slotLhp c).draws = s.draws.set .lhp (outLhp c s).2.draws := rfl
@[simp] theorem runLhp_responses (c : Calc Ladder (List Word64)) (s : State) : (s.run slotLhp c).responses = ⟨.ok, (outLhp c s).1⟩ :: s.responses := rfl

/-- What a rule of SKH computes from a state: its data words and the unit after it. -/
def outSkh (c : Calc Skh (List Word64)) (s : State) : List Word64 × Work Skh := c ⟨.skh, s.skh, s.draws.skh, 0⟩

@[simp] theorem runSkh_bq (c : Calc Skh (List Word64)) (s : State) : (s.run slotSkh c).bq = s.bq := rfl
@[simp] theorem runSkh_zlp (c : Calc Skh (List Word64)) (s : State) : (s.run slotSkh c).zlp = s.zlp := rfl
@[simp] theorem runSkh_zhp (c : Calc Skh (List Word64)) (s : State) : (s.run slotSkh c).zhp = s.zhp := rfl
@[simp] theorem runSkh_llp (c : Calc Skh (List Word64)) (s : State) : (s.run slotSkh c).llp = s.llp := rfl
@[simp] theorem runSkh_lhp (c : Calc Skh (List Word64)) (s : State) : (s.run slotSkh c).lhp = s.lhp := rfl
@[simp] theorem runSkh_skh (c : Calc Skh (List Word64)) (s : State) : (s.run slotSkh c).skh = (outSkh c s).2.regs := rfl
@[simp] theorem runSkh_env (c : Calc Skh (List Word64)) (s : State) : (s.run slotSkh c).env = s.env := rfl
@[simp] theorem runSkh_osn (c : Calc Skh (List Word64)) (s : State) : (s.run slotSkh c).osn = s.osn := rfl
@[simp] theorem runSkh_osa (c : Calc Skh (List Word64)) (s : State) : (s.run slotSkh c).osa = s.osa := rfl
@[simp] theorem runSkh_flt (c : Calc Skh (List Word64)) (s : State) : (s.run slotSkh c).flt = s.flt ||| (outSkh c s).2.flags := rfl
@[simp] theorem runSkh_audio (c : Calc Skh (List Word64)) (s : State) : (s.run slotSkh c).audio = s.audio := rfl
@[simp] theorem runSkh_control (c : Calc Skh (List Word64)) (s : State) : (s.run slotSkh c).control = s.control := rfl
@[simp] theorem runSkh_merges (c : Calc Skh (List Word64)) (s : State) : (s.run slotSkh c).merges = s.merges := rfl
@[simp] theorem runSkh_draws (c : Calc Skh (List Word64)) (s : State) : (s.run slotSkh c).draws = s.draws.set .skh (outSkh c s).2.draws := rfl
@[simp] theorem runSkh_responses (c : Calc Skh (List Word64)) (s : State) : (s.run slotSkh c).responses = ⟨.ok, (outSkh c s).1⟩ :: s.responses := rfl

/-- What a rule of ENV computes from a state: its data words and the unit after it. -/
def outEnv (c : Calc Env (List Word64)) (s : State) : List Word64 × Work Env := c ⟨.env, s.env, s.draws.env, 0⟩

@[simp] theorem runEnv_bq (c : Calc Env (List Word64)) (s : State) : (s.run slotEnv c).bq = s.bq := rfl
@[simp] theorem runEnv_zlp (c : Calc Env (List Word64)) (s : State) : (s.run slotEnv c).zlp = s.zlp := rfl
@[simp] theorem runEnv_zhp (c : Calc Env (List Word64)) (s : State) : (s.run slotEnv c).zhp = s.zhp := rfl
@[simp] theorem runEnv_llp (c : Calc Env (List Word64)) (s : State) : (s.run slotEnv c).llp = s.llp := rfl
@[simp] theorem runEnv_lhp (c : Calc Env (List Word64)) (s : State) : (s.run slotEnv c).lhp = s.lhp := rfl
@[simp] theorem runEnv_skh (c : Calc Env (List Word64)) (s : State) : (s.run slotEnv c).skh = s.skh := rfl
@[simp] theorem runEnv_env (c : Calc Env (List Word64)) (s : State) : (s.run slotEnv c).env = (outEnv c s).2.regs := rfl
@[simp] theorem runEnv_osn (c : Calc Env (List Word64)) (s : State) : (s.run slotEnv c).osn = s.osn := rfl
@[simp] theorem runEnv_osa (c : Calc Env (List Word64)) (s : State) : (s.run slotEnv c).osa = s.osa := rfl
@[simp] theorem runEnv_flt (c : Calc Env (List Word64)) (s : State) : (s.run slotEnv c).flt = s.flt ||| (outEnv c s).2.flags := rfl
@[simp] theorem runEnv_audio (c : Calc Env (List Word64)) (s : State) : (s.run slotEnv c).audio = s.audio := rfl
@[simp] theorem runEnv_control (c : Calc Env (List Word64)) (s : State) : (s.run slotEnv c).control = s.control := rfl
@[simp] theorem runEnv_merges (c : Calc Env (List Word64)) (s : State) : (s.run slotEnv c).merges = s.merges := rfl
@[simp] theorem runEnv_draws (c : Calc Env (List Word64)) (s : State) : (s.run slotEnv c).draws = s.draws.set .env (outEnv c s).2.draws := rfl
@[simp] theorem runEnv_responses (c : Calc Env (List Word64)) (s : State) : (s.run slotEnv c).responses = ⟨.ok, (outEnv c s).1⟩ :: s.responses := rfl

/-- What a rule of OSN computes from a state: its data words and the unit after it. -/
def outOsn (c : Calc Osn (List Word64)) (s : State) : List Word64 × Work Osn := c ⟨.osn, s.osn, s.draws.osn, 0⟩

@[simp] theorem runOsn_bq (c : Calc Osn (List Word64)) (s : State) : (s.run slotOsn c).bq = s.bq := rfl
@[simp] theorem runOsn_zlp (c : Calc Osn (List Word64)) (s : State) : (s.run slotOsn c).zlp = s.zlp := rfl
@[simp] theorem runOsn_zhp (c : Calc Osn (List Word64)) (s : State) : (s.run slotOsn c).zhp = s.zhp := rfl
@[simp] theorem runOsn_llp (c : Calc Osn (List Word64)) (s : State) : (s.run slotOsn c).llp = s.llp := rfl
@[simp] theorem runOsn_lhp (c : Calc Osn (List Word64)) (s : State) : (s.run slotOsn c).lhp = s.lhp := rfl
@[simp] theorem runOsn_skh (c : Calc Osn (List Word64)) (s : State) : (s.run slotOsn c).skh = s.skh := rfl
@[simp] theorem runOsn_env (c : Calc Osn (List Word64)) (s : State) : (s.run slotOsn c).env = s.env := rfl
@[simp] theorem runOsn_osn (c : Calc Osn (List Word64)) (s : State) : (s.run slotOsn c).osn = (outOsn c s).2.regs := rfl
@[simp] theorem runOsn_osa (c : Calc Osn (List Word64)) (s : State) : (s.run slotOsn c).osa = s.osa := rfl
@[simp] theorem runOsn_flt (c : Calc Osn (List Word64)) (s : State) : (s.run slotOsn c).flt = s.flt ||| (outOsn c s).2.flags := rfl
@[simp] theorem runOsn_audio (c : Calc Osn (List Word64)) (s : State) : (s.run slotOsn c).audio = s.audio := rfl
@[simp] theorem runOsn_control (c : Calc Osn (List Word64)) (s : State) : (s.run slotOsn c).control = s.control := rfl
@[simp] theorem runOsn_merges (c : Calc Osn (List Word64)) (s : State) : (s.run slotOsn c).merges = s.merges := rfl
@[simp] theorem runOsn_draws (c : Calc Osn (List Word64)) (s : State) : (s.run slotOsn c).draws = s.draws.set .osn (outOsn c s).2.draws := rfl
@[simp] theorem runOsn_responses (c : Calc Osn (List Word64)) (s : State) : (s.run slotOsn c).responses = ⟨.ok, (outOsn c s).1⟩ :: s.responses := rfl

/-- What a rule of OSA computes from a state: its data words and the unit after it. -/
def outOsa (c : Calc Osa (List Word64)) (s : State) : List Word64 × Work Osa := c ⟨.osa, s.osa, s.draws.osa, 0⟩

@[simp] theorem runOsa_bq (c : Calc Osa (List Word64)) (s : State) : (s.run slotOsa c).bq = s.bq := rfl
@[simp] theorem runOsa_zlp (c : Calc Osa (List Word64)) (s : State) : (s.run slotOsa c).zlp = s.zlp := rfl
@[simp] theorem runOsa_zhp (c : Calc Osa (List Word64)) (s : State) : (s.run slotOsa c).zhp = s.zhp := rfl
@[simp] theorem runOsa_llp (c : Calc Osa (List Word64)) (s : State) : (s.run slotOsa c).llp = s.llp := rfl
@[simp] theorem runOsa_lhp (c : Calc Osa (List Word64)) (s : State) : (s.run slotOsa c).lhp = s.lhp := rfl
@[simp] theorem runOsa_skh (c : Calc Osa (List Word64)) (s : State) : (s.run slotOsa c).skh = s.skh := rfl
@[simp] theorem runOsa_env (c : Calc Osa (List Word64)) (s : State) : (s.run slotOsa c).env = s.env := rfl
@[simp] theorem runOsa_osn (c : Calc Osa (List Word64)) (s : State) : (s.run slotOsa c).osn = s.osn := rfl
@[simp] theorem runOsa_osa (c : Calc Osa (List Word64)) (s : State) : (s.run slotOsa c).osa = (outOsa c s).2.regs := rfl
@[simp] theorem runOsa_flt (c : Calc Osa (List Word64)) (s : State) : (s.run slotOsa c).flt = s.flt ||| (outOsa c s).2.flags := rfl
@[simp] theorem runOsa_audio (c : Calc Osa (List Word64)) (s : State) : (s.run slotOsa c).audio = s.audio := rfl
@[simp] theorem runOsa_control (c : Calc Osa (List Word64)) (s : State) : (s.run slotOsa c).control = s.control := rfl
@[simp] theorem runOsa_merges (c : Calc Osa (List Word64)) (s : State) : (s.run slotOsa c).merges = s.merges := rfl
@[simp] theorem runOsa_draws (c : Calc Osa (List Word64)) (s : State) : (s.run slotOsa c).draws = s.draws.set .osa (outOsa c s).2.draws := rfl
@[simp] theorem runOsa_responses (c : Calc Osa (List Word64)) (s : State) : (s.run slotOsa c).responses = ⟨.ok, (outOsa c s).1⟩ :: s.responses := rfl

end Sys2Proof.Machine
end

