-- ==== Sys2Proof/Laws/Ops.lean ====
section
/-! SUPPORT. What each shared operation does, once: the arithmetic and register operations of a command as functions on its
`Work`, running a rule, refusing, reading back and taking a command from the port. -/

namespace Sys2Proof.Machine

variable {U α β : Type}

@[simp] theorem calc_bind (c : Calc U α) (f : α → Calc U β) (w : Work U) :
    (c >>= f) w = f (c w).1 (c w).2 := rfl

@[simp] theorem calc_pure (a : α) (w : Work U) : (pure a : Calc U α) w = (a, w) := rfl

@[simp] theorem calc_map (f : α → β) (c : Calc U α) (w : Work U) : (f <$> c) w = (f (c w).1, (c w).2) := rfl

/-- The work after one arithmetic operation: the draw counter has advanced. -/
def Work.tick (w : Work U) : Work U := { w with draws := w.draws + 1 }

/-- The NaN the next operation would return. -/
def Work.nan (w : Work U) : F64 := nanAt w.unit w.draws

@[simp] theorem tick_unit (w : Work U) : w.tick.unit = w.unit := rfl
@[simp] theorem tick_regs (w : Work U) : w.tick.regs = w.regs := rfl
@[simp] theorem tick_draws (w : Work U) : w.tick.draws = w.draws + 1 := rfl
@[simp] theorem tick_flags (w : Work U) : w.tick.flags = w.flags := rfl

theorem draw_apply (w : Work U) : draw w = (w.nan, w.tick) := rfl
@[simp] theorem fadd_apply (a b : F64) (w : Work U) : fadd a b w = (F64.add w.nan a b, w.tick) := rfl
@[simp] theorem fsub_apply (a b : F64) (w : Work U) : fsub a b w = (F64.sub w.nan a b, w.tick) := rfl
@[simp] theorem fmul_apply (a b : F64) (w : Work U) : fmul a b w = (F64.mul w.nan a b, w.tick) := rfl
@[simp] theorem fdiv_apply (a b : F64) (w : Work U) : fdiv a b w = (F64.div w.nan a b, w.tick) := rfl
@[simp] theorem fsqrt_apply (a : F64) (w : Work U) : fsqrt a w = (F64.sqrt w.nan a, w.tick) := rfl
@[simp] theorem regs_apply (w : Work U) : regs w = (w.regs, w) := rfl
@[simp] theorem rd_apply (r : Reg U) (w : Work U) : rd r w = (r.get w.regs, w) := rfl
@[simp] theorem plain_apply (f : U → U) (w : Work U) : plain f w = ((), { w with regs := f w.regs }) := rfl

@[simp] theorem wr_apply (r : Reg U) (v : F64) (w : Work U) :
    wr r v w = ((), { w with regs := r.set v.flush w.regs, flags := w.flags ||| nfFlag v.flush }) := rfl

@[simp] theorem out_apply (v : F64) (w : Work U) :
    out v w = (v.flush, { w with flags := w.flags ||| nfFlag v.flush }) := rfl

/-- A rule that needs INIT either runs or is refused NOT_INIT. -/
theorem runInit_cases (k : Slot U) (init : Bool) (c : Calc U (List Word64)) (s : State) :
    (init = true ∧ s.runInit k init c = s.run k c) ∨ (init = false ∧ s.runInit k init c = s.refuse .notInit) := by
  cases init
  · exact .inr ⟨rfl, rfl⟩
  · exact .inl ⟨rfl, rfl⟩

/-- Reading back either answers the register or is refused ILLEGAL. -/
theorem readBack_cases (words : List Word64) (idx : BitVec 8) (s : State) :
    (∃ w, words[idx.toNat]? = some w ∧ s.readBack words idx = s.respond [w]) ∨
      (words[idx.toNat]? = none ∧ s.readBack words idx = s.refuse .illegal) := by
  unfold State.readBack
  split
  · next w h => exact .inl ⟨w, h, rfl⟩
  · next h => exact .inr ⟨h, rfl⟩

/-- The port gives nothing only when both contexts are empty. -/
theorem accept_none {s : State} (h : s.accept = none) : s.audio = [] ∧ s.control = [] := by
  unfold State.accept at h
  split at h
  · next ha hc => exact ⟨ha, hc⟩
  · cases h
  · cases h
  · split at h <;> cases h

/-- What taking a command from the port can do: the head of one context's list is gone, the merge count may have
advanced, and nothing else has changed. -/
theorem accept_some {s t : State} {f : Frame} (h : s.accept = some (f, t)) :
    (s.audio = f :: t.audio ∧ t.control = s.control ∨ s.control = f :: t.control ∧ t.audio = s.audio) ∧
      t = { s with audio := t.audio, control := t.control, merges := t.merges } := by
  unfold State.accept at h
  split at h
  · cases h
  · next ha hc => cases h; exact ⟨.inl ⟨ha, by simp [hc]⟩, rfl⟩
  · next ha hc => cases h; exact ⟨.inr ⟨hc, by simp [ha]⟩, rfl⟩
  · next ha hc =>
    split at h
    · cases h; exact ⟨.inl ⟨ha, by simp [hc]⟩, rfl⟩
    · cases h; exact ⟨.inr ⟨hc, by simp [ha]⟩, rfl⟩

/-- The command a host has presented is the one the port gives next. -/
theorem accept_present (f : Frame) (s : State) :
    (s.present f).accept = some (f, { s with audio := [], control := [] }) := rfl

/-- Everything a step can do when it answers a next state. -/
theorem step_cases {s t : State} (h : step s = .next t) :
    (s.accept = none ∧ t = s) ∨
      (∃ f u i, s.accept = some (f, u) ∧ decode f = .ok i ∧ exec i u = .next t) ∨
      (∃ f u r, s.accept = some (f, u) ∧ decode f = .error r ∧ r ≠ .misframed ∧ t = u.refuse .illegal) := by
  unfold step at h
  split at h
  · next ha => cases h; exact .inl ⟨ha, rfl⟩
  · next f u ha =>
    split at h
    · next i hd => exact .inr (.inl ⟨f, u, i, ha, hd, h⟩)
    · cases h
    · next r hr hd => cases h; exact .inr (.inr ⟨f, u, r, ha, hd, fun e => hr (e ▸ rfl), rfl⟩)

end Sys2Proof.Machine
end

