-- ==== Sys2Proof/Laws/Units.lean ====
section
/-! SUPPORT. What the operations the units share compute, once each, as functions on the unit's registers: the maps, the
stage steps, the gain derivation, the counter advance and the phase wrap. `nanAt w.unit (w.draws + k)` is the NaN of the
`k`-th operation. -/

namespace Sys2Proof.Machine

variable {U : Type}

/-- R19. -/
theorem uni2bi_apply (p : F64) (w : Work U) :
    uni2bi p w = (F64.sub (nanAt w.unit (w.draws + 1)) (F64.mul (nanAt w.unit w.draws) fTwo p) fOne,
      { w with draws := w.draws + 2 }) := rfl

/-- R19. -/
theorem mapLin_apply (m lo hi : F64) (w : Work U) :
    mapLin m lo hi w = (F64.add (nanAt w.unit (w.draws + 2)) lo (F64.mul (nanAt w.unit (w.draws + 1))
      (F64.sub (nanAt w.unit w.draws) hi lo) m), { w with draws := w.draws + 3 }) := rfl

/-- R20. -/
theorem poly2_apply (c : Triple) (p : F64) (w : Work U) :
    poly2 c p w = (F64.add (nanAt w.unit (w.draws + 3)) (F64.mul (nanAt w.unit (w.draws + 2))
      (F64.add (nanAt w.unit (w.draws + 1)) (F64.mul (nanAt w.unit w.draws) c.c2 p) c.c1) p) c.c0,
      { w with draws := w.draws + 4 }) := rfl

/-- R131, the low-pass stage: four operations, the output flushed, the state written by `wr`. -/
theorem stageLp_apply (g : F64) (s : Reg U) (x : F64) (w : Work U) :
    stageLp g s x w =
      let v := F64.mul (nanAt w.unit (w.draws + 1)) g (F64.sub (nanAt w.unit w.draws) x (s.get w.regs))
      let y := (F64.add (nanAt w.unit (w.draws + 2)) v (s.get w.regs)).flush
      let t := (F64.add (nanAt w.unit (w.draws + 3)) y v).flush
      (y, { w with regs := s.set t w.regs, draws := w.draws + 4, flags := w.flags ||| nfFlag t }) := rfl

/-- R131, the high-pass stage: five operations. -/
theorem stageHp_apply (g : F64) (s : Reg U) (x : F64) (w : Work U) :
    stageHp g s x w =
      let y := (F64.mul (nanAt w.unit (w.draws + 1)) g (F64.sub (nanAt w.unit w.draws) x (s.get w.regs))).flush
      let t := F64.sub (nanAt w.unit (w.draws + 2)) x y
      let r := (F64.sub (nanAt w.unit (w.draws + 4)) (F64.add (nanAt w.unit (w.draws + 3)) t t)
        (s.get w.regs)).flush
      (y, { w with regs := s.set r w.regs, draws := w.draws + 5, flags := w.flags ||| nfFlag r }) := rfl

/-- R132, the low-pass gains. -/
theorem zdfGains_lp_apply (fc sr : F64) (w : Work U) :
    zdfGains .lp fc sr w =
      let gs := Config.tan (F64.div (nanAt w.unit (w.draws + 1)) (F64.mul (nanAt w.unit w.draws) cPi fc) sr)
      let den := F64.add (nanAt w.unit (w.draws + 2)) fOne gs
      (⟨gs, F64.div (nanAt w.unit (w.draws + 4)) gs den, F64.div (nanAt w.unit (w.draws + 3)) fOne den⟩,
        { w with draws := w.draws + 5 }) := rfl

/-- R132, the high-pass gains: GG is GR. -/
theorem zdfGains_hp_apply (fc sr : F64) (w : Work U) :
    zdfGains .hp fc sr w =
      let gs := Config.tan (F64.div (nanAt w.unit (w.draws + 1)) (F64.mul (nanAt w.unit w.draws) cPi fc) sr)
      let gr := F64.div (nanAt w.unit (w.draws + 3)) fOne (F64.add (nanAt w.unit (w.draws + 2)) fOne gs)
      (⟨gs, gr, gr⟩, { w with draws := w.draws + 4 }) := rfl

/-- R175, the counter advance. -/
theorem advanceCnt_apply (w : Work Env) :
    advanceCnt w =
      let t := (F64.add (nanAt w.unit w.draws) w.regs.cnt w.regs.dlt).flush
      ((), { w with regs := { w.regs with cnt := t }, draws := w.draws + 1, flags := w.flags ||| nfFlag t }) := rfl

/-- R193, R194, the wrap: one conditional subtraction, or nothing. -/
theorem wrapOnce_apply (p : F64) (w : Work Osn) :
    wrapOnce p w = if F64.ge p fOne then (F64.sub (nanAt w.unit w.draws) p fOne, { w with draws := w.draws + 1 })
      else (p, w) := by
  unfold wrapOnce
  split <;> rfl

/-- Every instruction answers a next state: nothing in the block faults or is refused for good (R230). -/
theorem exec_next (i : Instr) (s : State) : ∃ t, exec i s = .next t := by
  cases i <;> exact ⟨_, rfl⟩

end Sys2Proof.Machine
end

