-- ==== Sys2Proof/Laws/Generators.lean ====
section
/-! SUPPORT. What the operations of ENV, OSN and OSA compute, once each: the lines and transitions of the envelope, the phase
settings, the derivations. `nanAt w.unit (w.draws + k)` is the NaN of the `k`-th operation. -/

namespace Sys2Proof.Machine

@[simp] theorem flush_fZero : fZero.flush = fZero := by decide

@[simp] theorem or_none (f : BitVec 4) : f ||| (0 : BitVec 4) = f := BitVec.or_zero

/-- A flag set twice is set once (R239). -/
@[simp] theorem or_again (f g : BitVec 4) : f ||| (f ||| g) = f ||| g := by rw [← BitVec.or_assoc, BitVec.or_self]

@[simp] theorem nfFlag_fZero : nfFlag fZero = 0 := by decide

/-- R176, Attack: three operations; DLT, CNT and SEG by `wr`. -/
theorem enterAttack_apply (start : F64) (w : Work Env) :
    enterAttack start w =
      let dlt := (F64.div (nanAt w.unit (w.draws + 2)) fOne (F64.mul (nanAt w.unit (w.draws + 1))
        (F64.mul (nanAt w.unit w.draws) cAtkf w.regs.att) w.regs.sr)).flush
      ((), { w with
        regs := { w.regs with st := .attack, dlt := dlt, cnt := fZero, seg := start.flush }, draws := w.draws + 3
        flags := w.flags ||| nfFlag dlt ||| nfFlag start }) := by
  simp only [enterAttack, calc_bind, regs_apply, plain_apply, fmul_apply, fdiv_apply, wr_apply, regDlt, regCnt,
    regSeg, Work.nan, Work.tick, flush_fZero, nfFlag_fZero, nfFlag_flush, or_none, Nat.add_assoc, Nat.reduceAdd]

/-- R176, Decay: two operations; SEG stays. -/
theorem enterDecay_apply (w : Work Env) :
    enterDecay w =
      let dlt := (F64.div (nanAt w.unit (w.draws + 1)) fOne (F64.mul (nanAt w.unit w.draws) w.regs.dec
        w.regs.sr)).flush
      ((), { w with
        regs := { w.regs with st := .decay, dlt := dlt, cnt := fZero }, draws := w.draws + 2
        flags := w.flags ||| nfFlag dlt }) := by
  simp only [enterDecay, calc_bind, regs_apply, plain_apply, fmul_apply, fdiv_apply, wr_apply, regDlt, regCnt,
    Work.nan, Work.tick, flush_fZero, nfFlag_fZero, nfFlag_flush, or_none, Nat.add_assoc, Nat.reduceAdd]

/-- R176, Release: two operations; DLT, CNT and SEG by `wr`. -/
theorem enterRelease_apply (start : F64) (w : Work Env) :
    enterRelease start w =
      let dlt := (F64.div (nanAt w.unit (w.draws + 1)) fOne (F64.mul (nanAt w.unit w.draws) w.regs.rel
        w.regs.sr)).flush
      ((), { w with
        regs := { w.regs with st := .release, dlt := dlt, cnt := fZero, seg := start.flush }, draws := w.draws + 2
        flags := w.flags ||| nfFlag dlt ||| nfFlag start }) := by
  simp only [enterRelease, calc_bind, regs_apply, plain_apply, fmul_apply, fdiv_apply, wr_apply, regDlt, regCnt,
    regSeg, Work.nan, Work.tick, flush_fZero, nfFlag_fZero, nfFlag_flush, or_none, Nat.add_assoc, Nat.reduceAdd]

/-- R178, the line of Idle. -/
theorem envOut_idle_apply (w : Work Env) : envOut .idle w = (fZero, w) := rfl

/-- R179, the line of Attack, and the counter advance. -/
theorem envOut_attack_apply (w : Work Env) :
    envOut .attack w =
      let u := w.regs
      let m := F64.sqrt (nanAt w.unit w.draws) u.cnt
      let cnt := (F64.add (nanAt w.unit (w.draws + 4)) u.cnt u.dlt).flush
      (F64.add (nanAt w.unit (w.draws + 3)) u.seg (F64.mul (nanAt w.unit (w.draws + 2))
        (F64.sub (nanAt w.unit (w.draws + 1)) cVmax u.seg) m),
        { w with regs := { u with cnt := cnt }, draws := w.draws + 5, flags := w.flags ||| nfFlag cnt }) := rfl

/-- R180, the line of Decay, and the counter advance. -/
theorem envOut_decay_apply (w : Work Env) :
    envOut .decay w =
      let u := w.regs
      let m := F64.mul (nanAt w.unit w.draws) u.cnt u.cnt
      let hi := F64.mul (nanAt w.unit (w.draws + 1)) u.sus cPeak
      let cnt := (F64.add (nanAt w.unit (w.draws + 5)) u.cnt u.dlt).flush
      (F64.add (nanAt w.unit (w.draws + 4)) cPeak (F64.mul (nanAt w.unit (w.draws + 3))
        (F64.sub (nanAt w.unit (w.draws + 2)) hi cPeak) m),
        { w with regs := { u with cnt := cnt }, draws := w.draws + 6, flags := w.flags ||| nfFlag cnt }) := rfl

/-- R181, the line of Sustain. -/
theorem envOut_sustain_apply (w : Work Env) :
    envOut .sustain w = (F64.mul (nanAt w.unit w.draws) w.regs.sus cPeak, { w with draws := w.draws + 1 }) := rfl

/-- R182, the line of Release, and the counter advance. -/
theorem envOut_release_apply (w : Work Env) :
    envOut .release w =
      let u := w.regs
      let m := F64.mul (nanAt w.unit w.draws) u.cnt u.cnt
      let cnt := (F64.add (nanAt w.unit (w.draws + 4)) u.cnt u.dlt).flush
      (F64.add (nanAt w.unit (w.draws + 3)) u.seg (F64.mul (nanAt w.unit (w.draws + 2))
        (F64.sub (nanAt w.unit (w.draws + 1)) fZero u.seg) m),
        { w with regs := { u with cnt := cnt }, draws := w.draws + 5, flags := w.flags ||| nfFlag cnt }) := rfl

/-- R178, the transition from Idle. -/
theorem envNext_idle_apply (o : F64) (w : Work Env) :
    envNext .idle o w = if w.regs.gate then enterAttack fZero w else ((), w) := by
  cases h : w.regs.gate <;> simp [envNext, h]

/-- R179, the transitions from Attack. -/
theorem envNext_attack_apply (o : F64) (w : Work Env) :
    envNext .attack o w =
      let v := { w with draws := w.draws + 1 }
      if w.regs.gate then
        if F64.ge o (F64.sub (nanAt w.unit w.draws) cPeak cEps) then enterDecay v else ((), v)
      else enterRelease o w := by
  unfold envNext
  cases h : w.regs.gate
  · simp [h]
  · simp [h, Work.nan, Work.tick]
    split <;> simp_all

/-- R180, the transitions from Decay. -/
theorem envNext_decay_apply (o : F64) (w : Work Env) :
    envNext .decay o w =
      let thr := F64.add (nanAt w.unit (w.draws + 1)) (F64.mul (nanAt w.unit w.draws) w.regs.sus cPeak) cEps
      if w.regs.gate then
        ((), { w with
          regs := (if F64.le o thr then { w.regs with st := .sustain } else w.regs), draws := w.draws + 2 })
      else enterRelease o w := by
  unfold envNext
  cases h : w.regs.gate
  · simp [h]
  · simp [h, enterSustain, Work.nan, Work.tick]
    split <;> simp_all

/-- R181, the transition from Sustain. -/
theorem envNext_sustain_apply (o : F64) (w : Work Env) :
    envNext .sustain o w = if w.regs.gate then ((), w) else enterRelease o w := by
  unfold envNext
  cases h : w.regs.gate <;> simp [h]

/-- R182, the transitions from Release. -/
theorem envNext_release_apply (o : F64) (w : Work Env) :
    envNext .release o w =
      if w.regs.gate then enterAttack o w
      else ((), { w with
        regs := (if F64.le o (F64.add (nanAt w.unit w.draws) fZero cEps) then { w.regs with st := .idle } else w.regs)
        draws := w.draws + 1 }) := by
  unfold envNext
  cases h : w.regs.gate
  · simp [h, enterIdle, Work.nan, Work.tick]
    split <;> simp_all
  · simp [h]

/-- R174: the sample is the output and OUT, and the transition test follows. -/
theorem ruleRendEnv_apply (w : Work Env) :
    ruleRendEnv w =
      let p := envOut w.regs.st w
      let o := p.1.flush
      let v := { p.2 with regs := { p.2.regs with out := o }, flags := p.2.flags ||| nfFlag p.1 ||| nfFlag p.1 }
      ([bits64 o], (envNext w.regs.st o v).2) := by
  simp [ruleRendEnv, regOut]

/-- R191, R192, the increment. -/
theorem deriveInc_apply (w : Work Osn) :
    deriveInc w = ((), { w with
      regs := { w.regs with inc := F64.div (nanAt w.unit w.draws) w.regs.freq w.regs.sr }, draws := w.draws + 1 }) :=
  rfl

/-- R193: PH and TPH from PHS; a second operation for TPH where it wraps. -/
theorem osnSetPhase_apply (w : Work Osn) :
    osnSetPhase w =
      let t := F64.add (nanAt w.unit w.draws) w.regs.phs fHalf
      let c := F64.ge t fOne
      let tph := (if c then F64.sub (nanAt w.unit (w.draws + 1)) t fOne else t).flush
      ((), { w with
        regs := { w.regs with ph := w.regs.phs.flush, tph := tph }, draws := w.draws + (if c then 2 else 1)
        flags := w.flags ||| nfFlag w.regs.phs ||| nfFlag tph }) := by
  simp only [osnSetPhase, calc_bind, regs_apply, wr_apply, regPh, regTph, fadd_apply, wrapOnce_apply, Work.nan,
    Work.tick, nfFlag_flush]
  split <;> simp_all

/-- R204: PS, PT and DIR from PHS and PW; the branch that falls takes one operation more. -/
theorem osaSetPhase_apply (w : Work Osa) :
    osaSetPhase w =
      let u := w.regs
      let ps := (F64.sub (nanAt w.unit (w.draws + 1)) (F64.mul (nanAt w.unit w.draws) fTwo u.phs) fOne).flush
      let up := F64.lt u.phs u.pw
      let pt :=
        (if up then
          F64.add (nanAt w.unit (w.draws + 4)) fNegOne (F64.div (nanAt w.unit (w.draws + 3))
            (F64.mul (nanAt w.unit (w.draws + 2)) fTwo u.phs) u.pw)
        else
          F64.sub (nanAt w.unit (w.draws + 6)) fOne (F64.div (nanAt w.unit (w.draws + 5))
            (F64.mul (nanAt w.unit (w.draws + 3)) fTwo (F64.sub (nanAt w.unit (w.draws + 2)) u.phs u.pw))
            (F64.sub (nanAt w.unit (w.draws + 4)) fOne u.pw))).flush
      ((), { w with
        regs := { u with ps := ps, pt := pt, dir := (if up then .up else .down) }
        draws := w.draws + (if up then 5 else 7), flags := w.flags ||| nfFlag ps ||| nfFlag pt }) := by
  unfold osaSetPhase
  cases h : F64.lt w.regs.phs w.regs.pw <;>
    simp [h, regPs, regPt, Work.nan, Work.tick, Nat.add_assoc]

/-- R205: five operations, plain writes. -/
theorem deriveDc_apply (w : Work Osa) :
    deriveDc w =
      let asym := F64.mul (nanAt w.unit (w.draws + 2)) (F64.sub (nanAt w.unit (w.draws + 1)) w.regs.pw
        (F64.sub (nanAt w.unit w.draws) fOne w.regs.pw)) Config.dcPer
      ((), { w with
        regs := { w.regs with
          dcp := F64.mul (nanAt w.unit (w.draws + 3)) Config.kdcPulse asym
          dct := F64.mul (nanAt w.unit (w.draws + 4)) Config.kdcTri asym }
        draws := w.draws + 5 }) := rfl

/-- R201, R205: the derivation reads FREQ, PW and SR, performs 67 operations and writes the coefficient registers
plainly; the parameters, the phases, DIR and INIT stay, and no flag is set. -/
theorem deriveOsa_frame (w : Work Osa) :
    (deriveOsa w).2.unit = w.unit ∧ (deriveOsa w).2.draws = w.draws + 67 ∧ (deriveOsa w).2.flags = w.flags ∧
      (deriveOsa w).2.regs.sr = w.regs.sr ∧ (deriveOsa w).2.regs.freq = w.regs.freq ∧
      (deriveOsa w).2.regs.pw = w.regs.pw ∧ (deriveOsa w).2.regs.phs = w.regs.phs ∧
      (deriveOsa w).2.regs.ps = w.regs.ps ∧ (deriveOsa w).2.regs.pt = w.regs.pt ∧
      (deriveOsa w).2.regs.dir = w.regs.dir ∧ (deriveOsa w).2.regs.init = w.regs.init :=
  ⟨rfl, rfl, rfl, rfl, rfl, rfl, rfl, rfl, rfl, rfl, rfl⟩

/-- The pure part of R20 for the operations from the `k`-th on. -/
def polyAt (w : Work Osa) (k : Nat) (c : Triple) (p : F64) : F64 :=
  F64.add (nanAt w.unit (w.draws + (k + 3))) (F64.mul (nanAt w.unit (w.draws + (k + 2)))
    (F64.add (nanAt w.unit (w.draws + (k + 1))) (F64.mul (nanAt w.unit (w.draws + k)) c.c2 p) c.c1) p) c.c0

/-- R207: the three regions; PS alone is written, by `wr`. -/
theorem osaSawPulse_apply (w : Work Osa) :
    osaSawPulse w =
      let u := w.regs
      let p := u.ps
      let done : F64 → Nat → Work Osa := fun ps k =>
        { w with regs := { u with ps := ps.flush }, draws := w.draws + k, flags := w.flags ||| nfFlag ps.flush }
      let level : F64 := if F64.lt p u.e then fOne else fNegOne
      if F64.gt p u.sthr then
        ((polyAt w 0 u.sawc p, polyAt w 4 u.pupc p), done (F64.add (nanAt w.unit (w.draws + 9))
          (F64.sub (nanAt w.unit (w.draws + 8)) p fTwo) u.inc2) 10)
      else if F64.gt p u.elo && F64.le p u.ehi then
        ((p, polyAt w 0 u.pdnc p), done (F64.add (nanAt w.unit (w.draws + 4)) p u.inc2) 5)
      else ((p, level), done (F64.add (nanAt w.unit w.draws) p u.inc2) 1) := by
  unfold osaSawPulse
  cases h1 : F64.gt w.regs.ps w.regs.sthr
  · cases h2 : F64.gt w.regs.ps w.regs.elo && F64.le w.regs.ps w.regs.ehi
    · simp only [calc_bind, regs_apply, h1, h2, Bool.false_eq_true, ↓reduceIte]
      rfl
    · simp only [calc_bind, regs_apply, h1, h2, Bool.false_eq_true, ↓reduceIte]
      rfl
  · simp only [calc_bind, regs_apply, h1, ↓reduceIte]
    rfl

/-- R208: the corners and the straight runs; PT is written by `wr`, and DIR at a corner. -/
theorem osaTri_apply (w : Work Osa) :
    osaTri w =
      let u := w.regs
      let p := u.pt
      let done : F64 → Dir → Nat → Work Osa := fun pt dir k =>
        { w with
          regs := { u with pt := pt.flush, dir := dir }, draws := w.draws + k, flags := w.flags ||| nfFlag pt.flush }
      match u.dir with
      | .up =>
        if F64.gt p u.tthr then
          (polyAt w 0 u.topc p, done (F64.add (nanAt w.unit (w.draws + 7)) (F64.add (nanAt w.unit (w.draws + 6)) fOne
            (F64.mul (nanAt w.unit (w.draws + 5)) u.rba (F64.sub (nanAt w.unit (w.draws + 4)) p fOne))) u.b) .down 8)
        else (p, done (F64.add (nanAt w.unit w.draws) p u.a) .up 1)
      | .down =>
        if F64.lt p u.bthr then
          (polyAt w 0 u.botc p, done (F64.add (nanAt w.unit (w.draws + 7)) (F64.add (nanAt w.unit (w.draws + 6))
            fNegOne (F64.mul (nanAt w.unit (w.draws + 5)) u.rab (F64.add (nanAt w.unit (w.draws + 4)) p fOne))) u.a)
            .up 8)
        else (p, done (F64.add (nanAt w.unit w.draws) p u.b) .down 1) := by
  unfold osaTri
  cases hd : w.regs.dir
  · cases h : F64.gt w.regs.pt w.regs.tthr
    · simp only [calc_bind, regs_apply, hd, h, Bool.false_eq_true, ↓reduceIte]
      rw [← hd]
      rfl
    · simp only [calc_bind, regs_apply, hd, h, ↓reduceIte]
      rfl
  · cases h : F64.lt w.regs.pt w.regs.bthr
    · simp only [calc_bind, regs_apply, hd, h, Bool.false_eq_true, ↓reduceIte]
      rw [← hd]
      rfl
    · simp only [calc_bind, regs_apply, hd, h, ↓reduceIte]
      rfl

end Sys2Proof.Machine
end

