-- ==== Sys2Proof/Laws/PerInstr.lean ====
section
/-! SUPPORT. The family TableRow: the encoding of every instruction matches its row of 30_encoding.md R92 and has the operand
count of the row's format (R89). -/

namespace Sys2Proof

/-- The `match` and `mask` columns and the operand count of an instruction's row of R92. -/
def Laws.TableRow.row : Instr → Word32 × Word32 × Nat
  | .resetBq _ => (0x01000000, 0xFFFFFFFF, 1)
  | .resetZlp _ => (0x01100000, 0xFFFFFFFF, 1)
  | .resetZhp _ => (0x01200000, 0xFFFFFFFF, 1)
  | .resetLlp _ => (0x01300000, 0xFFFFFFFF, 1)
  | .resetLhp _ => (0x01400000, 0xFFFFFFFF, 1)
  | .resetSkh _ => (0x01500000, 0xFFFFFFFF, 1)
  | .resetEnv _ => (0x01600000, 0xFFFFFFFF, 1)
  | .resetOsn _ => (0x01700000, 0xFFFFFFFF, 1)
  | .resetOsa _ => (0x01800000, 0xFFFFFFFF, 1)
  | .clrBq => (0x02000000, 0xFFFFFFFF, 0)
  | .setpBq _ => (0x03000000, 0xFFFFFFFF, 1)
  | .setpZlp _ => (0x03100000, 0xFFFFFFFF, 1)
  | .setpZhp _ => (0x03200000, 0xFFFFFFFF, 1)
  | .setpLlp _ _ => (0x03300000, 0xFFFFFFFF, 2)
  | .setpLhp _ _ => (0x03400000, 0xFFFFFFFF, 2)
  | .setpSkh _ _ => (0x03500000, 0xFFFFFFFF, 2)
  | .setpEnv _ _ _ _ => (0x03600000, 0xFFFFFFFF, 4)
  | .setpOsn _ _ _ => (0x03700000, 0xFFFFFFFF, 3)
  | .setpOsa _ _ _ => (0x03800000, 0xFFFFFFFF, 3)
  | .getpBq => (0x04000000, 0xFFFFFFFF, 0)
  | .getpZlp => (0x04100000, 0xFFFFFFFF, 0)
  | .getpZhp => (0x04200000, 0xFFFFFFFF, 0)
  | .getpLlp => (0x04300000, 0xFFFFFFFF, 0)
  | .getpLhp => (0x04400000, 0xFFFFFFFF, 0)
  | .getpSkh => (0x04500000, 0xFFFFFFFF, 0)
  | .getpEnv => (0x04600000, 0xFFFFFFFF, 0)
  | .getpOsn => (0x04700000, 0xFFFFFFFF, 0)
  | .getpOsa => (0x04800000, 0xFFFFFFFF, 0)
  | .getsBq _ => (0x05000000, 0xFFFF00FF, 0)
  | .getsZlp _ => (0x05100000, 0xFFFF00FF, 0)
  | .getsZhp _ => (0x05200000, 0xFFFF00FF, 0)
  | .getsLlp _ => (0x05300000, 0xFFFF00FF, 0)
  | .getsLhp _ => (0x05400000, 0xFFFF00FF, 0)
  | .getsSkh _ => (0x05500000, 0xFFFF00FF, 0)
  | .getsEnv _ => (0x05600000, 0xFFFF00FF, 0)
  | .getsOsn _ => (0x05700000, 0xFFFF00FF, 0)
  | .getsOsa _ => (0x05800000, 0xFFFF00FF, 0)
  | .procBq _ => (0x06000000, 0xFFFFFFFF, 1)
  | .procZlp _ => (0x06100000, 0xFFFFFFFF, 1)
  | .procZhp _ => (0x06200000, 0xFFFFFFFF, 1)
  | .procLlp _ => (0x06300000, 0xFFFFFFFF, 1)
  | .procLhp _ => (0x06400000, 0xFFFFFFFF, 1)
  | .procSkh _ => (0x06500000, 0xFFFFFFFF, 1)
  | .rendEnv => (0x07600000, 0xFFFFFFFF, 0)
  | .rendOsn => (0x07700000, 0xFFFFFFFF, 0)
  | .rendOsa => (0x07800000, 0xFFFFFFFF, 0)
  | .gateEnv _ => (0x08600000, 0xFFFEFFFF, 0)
  | .retrigOsn => (0x09700000, 0xFFFFFFFF, 0)
  | .retrigOsa => (0x09800000, 0xFFFFFFFF, 0)
  | .setformBq _ => (0x0A000000, 0xFFFCFFFF, 0)
  | .ldcoefBq _ _ _ _ _ => (0x0B000000, 0xFFFFFFFF, 5)
  | .rdflt => (0x0C000000, 0xFFFFFFFF, 0)

/-- `cw & mask` is `match`, and the frame has the row's operand words (R89, R92). -/
def Laws.TableRow.Statement (i : Instr) : Prop :=
  (encode i).cw &&& (Laws.TableRow.row i).2.1 = (Laws.TableRow.row i).1 ∧
    (encode i).ops.length = (Laws.TableRow.row i).2.2

theorem Laws.TableRow.resetBq (sr : F64) : Laws.TableRow.Statement (.resetBq sr) :=
  ⟨by dsimp only [encode, mkFrame, Laws.TableRow.row]; decide, rfl⟩
theorem Laws.TableRow.resetZlp (sr : F64) : Laws.TableRow.Statement (.resetZlp sr) :=
  ⟨by dsimp only [encode, mkFrame, Laws.TableRow.row]; decide, rfl⟩
theorem Laws.TableRow.resetZhp (sr : F64) : Laws.TableRow.Statement (.resetZhp sr) :=
  ⟨by dsimp only [encode, mkFrame, Laws.TableRow.row]; decide, rfl⟩
theorem Laws.TableRow.resetLlp (sr : F64) : Laws.TableRow.Statement (.resetLlp sr) :=
  ⟨by dsimp only [encode, mkFrame, Laws.TableRow.row]; decide, rfl⟩
theorem Laws.TableRow.resetLhp (sr : F64) : Laws.TableRow.Statement (.resetLhp sr) :=
  ⟨by dsimp only [encode, mkFrame, Laws.TableRow.row]; decide, rfl⟩
theorem Laws.TableRow.resetSkh (sr : F64) : Laws.TableRow.Statement (.resetSkh sr) :=
  ⟨by dsimp only [encode, mkFrame, Laws.TableRow.row]; decide, rfl⟩
theorem Laws.TableRow.resetEnv (sr : F64) : Laws.TableRow.Statement (.resetEnv sr) :=
  ⟨by dsimp only [encode, mkFrame, Laws.TableRow.row]; decide, rfl⟩
theorem Laws.TableRow.resetOsn (sr : F64) : Laws.TableRow.Statement (.resetOsn sr) :=
  ⟨by dsimp only [encode, mkFrame, Laws.TableRow.row]; decide, rfl⟩
theorem Laws.TableRow.resetOsa (sr : F64) : Laws.TableRow.Statement (.resetOsa sr) :=
  ⟨by dsimp only [encode, mkFrame, Laws.TableRow.row]; decide, rfl⟩
theorem Laws.TableRow.clrBq : Laws.TableRow.Statement (.clrBq) :=
  ⟨by dsimp only [encode, mkFrame, Laws.TableRow.row]; decide, rfl⟩
theorem Laws.TableRow.setpBq (fc : F64) : Laws.TableRow.Statement (.setpBq fc) :=
  ⟨by dsimp only [encode, mkFrame, Laws.TableRow.row]; decide, rfl⟩
theorem Laws.TableRow.setpZlp (fc : F64) : Laws.TableRow.Statement (.setpZlp fc) :=
  ⟨by dsimp only [encode, mkFrame, Laws.TableRow.row]; decide, rfl⟩
theorem Laws.TableRow.setpZhp (fc : F64) : Laws.TableRow.Statement (.setpZhp fc) :=
  ⟨by dsimp only [encode, mkFrame, Laws.TableRow.row]; decide, rfl⟩
theorem Laws.TableRow.setpLlp (fc res : F64) : Laws.TableRow.Statement (.setpLlp fc res) :=
  ⟨by dsimp only [encode, mkFrame, Laws.TableRow.row]; decide, rfl⟩
theorem Laws.TableRow.setpLhp (fc res : F64) : Laws.TableRow.Statement (.setpLhp fc res) :=
  ⟨by dsimp only [encode, mkFrame, Laws.TableRow.row]; decide, rfl⟩
theorem Laws.TableRow.setpSkh (fc res : F64) : Laws.TableRow.Statement (.setpSkh fc res) :=
  ⟨by dsimp only [encode, mkFrame, Laws.TableRow.row]; decide, rfl⟩
theorem Laws.TableRow.setpEnv (att dec sus rel : F64) : Laws.TableRow.Statement (.setpEnv att dec sus rel) :=
  ⟨by dsimp only [encode, mkFrame, Laws.TableRow.row]; decide, rfl⟩
theorem Laws.TableRow.setpOsn (freq pw phs : F64) : Laws.TableRow.Statement (.setpOsn freq pw phs) :=
  ⟨by dsimp only [encode, mkFrame, Laws.TableRow.row]; decide, rfl⟩
theorem Laws.TableRow.setpOsa (freq pw phs : F64) : Laws.TableRow.Statement (.setpOsa freq pw phs) :=
  ⟨by dsimp only [encode, mkFrame, Laws.TableRow.row]; decide, rfl⟩
theorem Laws.TableRow.getpBq : Laws.TableRow.Statement (.getpBq) :=
  ⟨by dsimp only [encode, mkFrame, Laws.TableRow.row]; decide, rfl⟩
theorem Laws.TableRow.getpZlp : Laws.TableRow.Statement (.getpZlp) :=
  ⟨by dsimp only [encode, mkFrame, Laws.TableRow.row]; decide, rfl⟩
theorem Laws.TableRow.getpZhp : Laws.TableRow.Statement (.getpZhp) :=
  ⟨by dsimp only [encode, mkFrame, Laws.TableRow.row]; decide, rfl⟩
theorem Laws.TableRow.getpLlp : Laws.TableRow.Statement (.getpLlp) :=
  ⟨by dsimp only [encode, mkFrame, Laws.TableRow.row]; decide, rfl⟩
theorem Laws.TableRow.getpLhp : Laws.TableRow.Statement (.getpLhp) :=
  ⟨by dsimp only [encode, mkFrame, Laws.TableRow.row]; decide, rfl⟩
theorem Laws.TableRow.getpSkh : Laws.TableRow.Statement (.getpSkh) :=
  ⟨by dsimp only [encode, mkFrame, Laws.TableRow.row]; decide, rfl⟩
theorem Laws.TableRow.getpEnv : Laws.TableRow.Statement (.getpEnv) :=
  ⟨by dsimp only [encode, mkFrame, Laws.TableRow.row]; decide, rfl⟩
theorem Laws.TableRow.getpOsn : Laws.TableRow.Statement (.getpOsn) :=
  ⟨by dsimp only [encode, mkFrame, Laws.TableRow.row]; decide, rfl⟩
theorem Laws.TableRow.getpOsa : Laws.TableRow.Statement (.getpOsa) :=
  ⟨by dsimp only [encode, mkFrame, Laws.TableRow.row]; decide, rfl⟩
theorem Laws.TableRow.getsBq (idx : BitVec 8) : Laws.TableRow.Statement (.getsBq idx) :=
  ⟨by revert idx; decide, rfl⟩
theorem Laws.TableRow.getsZlp (idx : BitVec 8) : Laws.TableRow.Statement (.getsZlp idx) :=
  ⟨by revert idx; decide, rfl⟩
theorem Laws.TableRow.getsZhp (idx : BitVec 8) : Laws.TableRow.Statement (.getsZhp idx) :=
  ⟨by revert idx; decide, rfl⟩
theorem Laws.TableRow.getsLlp (idx : BitVec 8) : Laws.TableRow.Statement (.getsLlp idx) :=
  ⟨by revert idx; decide, rfl⟩
theorem Laws.TableRow.getsLhp (idx : BitVec 8) : Laws.TableRow.Statement (.getsLhp idx) :=
  ⟨by revert idx; decide, rfl⟩
theorem Laws.TableRow.getsSkh (idx : BitVec 8) : Laws.TableRow.Statement (.getsSkh idx) :=
  ⟨by revert idx; decide, rfl⟩
theorem Laws.TableRow.getsEnv (idx : BitVec 8) : Laws.TableRow.Statement (.getsEnv idx) :=
  ⟨by revert idx; decide, rfl⟩
theorem Laws.TableRow.getsOsn (idx : BitVec 8) : Laws.TableRow.Statement (.getsOsn idx) :=
  ⟨by revert idx; decide, rfl⟩
theorem Laws.TableRow.getsOsa (idx : BitVec 8) : Laws.TableRow.Statement (.getsOsa idx) :=
  ⟨by revert idx; decide, rfl⟩
theorem Laws.TableRow.procBq (x : F64) : Laws.TableRow.Statement (.procBq x) :=
  ⟨by dsimp only [encode, mkFrame, Laws.TableRow.row]; decide, rfl⟩
theorem Laws.TableRow.procZlp (x : F64) : Laws.TableRow.Statement (.procZlp x) :=
  ⟨by dsimp only [encode, mkFrame, Laws.TableRow.row]; decide, rfl⟩
theorem Laws.TableRow.procZhp (x : F64) : Laws.TableRow.Statement (.procZhp x) :=
  ⟨by dsimp only [encode, mkFrame, Laws.TableRow.row]; decide, rfl⟩
theorem Laws.TableRow.procLlp (x : F64) : Laws.TableRow.Statement (.procLlp x) :=
  ⟨by dsimp only [encode, mkFrame, Laws.TableRow.row]; decide, rfl⟩
theorem Laws.TableRow.procLhp (x : F64) : Laws.TableRow.Statement (.procLhp x) :=
  ⟨by dsimp only [encode, mkFrame, Laws.TableRow.row]; decide, rfl⟩
theorem Laws.TableRow.procSkh (x : F64) : Laws.TableRow.Statement (.procSkh x) :=
  ⟨by dsimp only [encode, mkFrame, Laws.TableRow.row]; decide, rfl⟩
theorem Laws.TableRow.rendEnv : Laws.TableRow.Statement (.rendEnv) :=
  ⟨by dsimp only [encode, mkFrame, Laws.TableRow.row]; decide, rfl⟩
theorem Laws.TableRow.rendOsn : Laws.TableRow.Statement (.rendOsn) :=
  ⟨by dsimp only [encode, mkFrame, Laws.TableRow.row]; decide, rfl⟩
theorem Laws.TableRow.rendOsa : Laws.TableRow.Statement (.rendOsa) :=
  ⟨by dsimp only [encode, mkFrame, Laws.TableRow.row]; decide, rfl⟩
theorem Laws.TableRow.gateEnv (b : Bool) : Laws.TableRow.Statement (.gateEnv b) :=
  ⟨by revert b; decide, rfl⟩
theorem Laws.TableRow.retrigOsn : Laws.TableRow.Statement (.retrigOsn) :=
  ⟨by dsimp only [encode, mkFrame, Laws.TableRow.row]; decide, rfl⟩
theorem Laws.TableRow.retrigOsa : Laws.TableRow.Statement (.retrigOsa) :=
  ⟨by dsimp only [encode, mkFrame, Laws.TableRow.row]; decide, rfl⟩
theorem Laws.TableRow.setformBq (f : Form) : Laws.TableRow.Statement (.setformBq f) :=
  ⟨by cases f <;> decide, rfl⟩
theorem Laws.TableRow.ldcoefBq (a0 a1 a2 b1 b2 : F64) : Laws.TableRow.Statement (.ldcoefBq a0 a1 a2 b1 b2) :=
  ⟨by dsimp only [encode, mkFrame, Laws.TableRow.row]; decide, rfl⟩
theorem Laws.TableRow.rdflt : Laws.TableRow.Statement (.rdflt) :=
  ⟨by dsimp only [encode, mkFrame, Laws.TableRow.row]; decide, rfl⟩

end Sys2Proof
end

