-- ==== Sys2Proof/Machine/Assembler.lean ====
section
/-! DEFINITION. The assembler text of 30_encoding.md R99 and the pseudo-instructions of R100, over lists of characters. A
notation for commands, no part of the block's behaviour (D32; log 16). -/

namespace Sys2Proof.Machine

/-- The pseudo-instructions (R100). A network's stage `i` is counted from 0 here. -/
inductive Pseudo where
  | noteOn
  | noteOff
  | getstateZlp
  | getstateZhp
  | getstateLlp (i : Fin 4)
  | getstateLhp (i : Fin 4)
  | getstateSkh (i : Fin 2)
  | setcutBq (fc : F64)
  deriving DecidableEq, Repr

/-- The expansion of a pseudo-instruction (R100): S is index 5 of a stage (R38), S1 index 10 of a ladder (R39) and
index 7 of SKH (R40). -/
def Pseudo.expand : Pseudo → Instr
  | .noteOn => .gateEnv true
  | .noteOff => .gateEnv false
  | .getstateZlp => .getsZlp 5
  | .getstateZhp => .getsZhp 5
  | .getstateLlp i => .getsLlp (BitVec.ofNat 8 (10 + i.val))
  | .getstateLhp i => .getsLhp (BitVec.ofNat 8 (10 + i.val))
  | .getstateSkh i => .getsSkh (BitVec.ofNat 8 (7 + i.val))
  | .setcutBq fc => .setpBq fc

/-- The register names of a unit in index order (10_state.md R34 to R44, R99). -/
def regNames : UnitId → List String
  | .bq => ["SR", "FC", "A0", "A1", "A2", "B1", "B2", "Z0", "Z1", "Z2", "Z3", "FORM", "INIT", "ZV"]
  | .zlp => ["SR", "FC", "GS", "GG", "GR", "S", "INIT"]
  | .zhp => ["SR", "FC", "GS", "GG", "GR", "S", "INIT"]
  | .llp => ["SR", "FC", "RES", "K", "GS", "GG", "GR", "G2", "G3", "G4", "S1", "S2", "S3", "S4", "INIT"]
  | .lhp => ["SR", "FC", "RES", "K", "GS", "GG", "GR", "G2", "G3", "G4", "S1", "S2", "S3", "S4", "INIT"]
  | .skh => ["SR", "FC", "RES", "K", "GS", "GG", "GM", "S1", "S2", "INIT"]
  | .env => ["SR", "ATT", "DEC", "SUS", "REL", "CNT", "SEG", "DLT", "OUT", "ST", "GATE", "INIT"]
  | .osn => ["SR", "FREQ", "PW", "PHS", "INC", "PH", "TPH", "INIT"]
  | .osa => ["SR", "FREQ", "PW", "PHS", "D", "INC2", "STHR", "RD", "E", "ELO", "EHI", "A", "B", "TTHR", "BTHR",
      "RBA", "RAB", "DCP", "DCT", "SAWC2", "SAWC1", "SAWC0", "PUPC2", "PUPC1", "PUPC0", "PDNC2", "PDNC1", "PDNC0",
      "TOPC2", "TOPC1", "TOPC0", "BOTC2", "BOTC1", "BOTC0", "PS", "PT", "DIR", "INIT"]

/-- The mnemonic of an operation (R88). -/
def opNames : List (String × Op) :=
  [("RESET", .reset), ("CLR", .clr), ("SETP", .setp), ("GETP", .getp), ("GETS", .gets), ("PROC", .proc),
   ("REND", .rend), ("GATE", .gate), ("RETRIG", .retrig), ("SETFORM", .setform), ("LDCOEF", .ldcoef),
   ("RDFLT", .rdflt)]

/-- The suffix of a unit (R2, R99). -/
def unitNames : List (String × UnitId) :=
  [("BQ", .bq), ("ZLP", .zlp), ("ZHP", .zhp), ("LLP", .llp), ("LHP", .lhp), ("SKH", .skh), ("ENV", .env),
   ("OSN", .osn), ("OSA", .osa)]

/-- The names `SETFORM.BQ` takes, besides 0 to 3 (R99). -/
def formNames : List (String × Form) :=
  [("DIRECT", .direct), ("CANONICAL", .canonical), ("TDIRECT", .transposedDirect),
   ("TCANONICAL", .transposedCanonical), ("0", .direct), ("1", .canonical), ("2", .transposedDirect),
   ("3", .transposedCanonical)]

/-- What a table of names holds under a word. -/
def lookupName {α : Type} (table : List (String × α)) (word : List Char) : Option α :=
  (table.find? fun e => e.1.toList == word).map fun e => e.2

/-- A space or a tab. -/
def isBlank (c : Char) : Bool := c == ' ' || c == '\t'

/-- A word without the blanks around it. -/
def trimBlanks (cs : List Char) : List Char :=
  ((cs.dropWhile isBlank).reverse.dropWhile isBlank).reverse

/-- What stands before the first character that `p` accepts, and what stands after it, if there is one. -/
def splitFirst (p : Char → Bool) : List Char → List Char × Option (List Char)
  | [] => ([], none)
  | x :: xs =>
    if p x then ([], some xs)
    else
      let r := splitFirst p xs
      (x :: r.1, r.2)

/-- The pieces between the characters `c`. -/
def splitAll (c : Char) : List Char → List (List Char)
  | [] => [[]]
  | x :: xs =>
    match splitAll c xs with
    | [] => [[x]]
    | w :: ws => if x == c then [] :: w :: ws else (x :: w) :: ws

/-- The value of a hexadecimal digit. -/
def hexDigit (c : Char) : Option Nat :=
  if '0' ≤ c ∧ c ≤ '9' then some (c.toNat - 48)
  else if 'A' ≤ c ∧ c ≤ 'F' then some (c.toNat - 55)
  else if 'a' ≤ c ∧ c ≤ 'f' then some (c.toNat - 87)
  else none

/-- The number a non-empty digit string writes in a base. -/
def digitsValue (base : Nat) (cs : List Char) : Option Nat :=
  if cs.isEmpty then none
  else cs.foldl (fun acc c =>
    match acc, hexDigit c with
    | some n, some d => if d < base then some (n * base + d) else none
    | _, _ => none) (some 0)

/-- A signed decimal number. -/
def signedValue (cs : List Char) : Option Int :=
  match cs with
  | '-' :: rest => (digitsValue 10 rest).map fun n => -(n : Int)
  | '+' :: rest => (digitsValue 10 rest).map fun n => (n : Int)
  | _ => (digitsValue 10 cs).map fun n => (n : Int)

/-- `m · 10^e` with a sign, "read as the nearest F64, ties to even" (R99). -/
def decimalF64 (neg : Bool) (m : Nat) (e : Int) : F64 :=
  if 0 ≤ e then F64.round neg (m * 10 ^ e.toNat * 2 ^ 1074) 1
  else F64.round neg (m * 2 ^ 1074) (10 ^ (-e).toNat)

/-- A decimal literal: digits, an optional fraction, an optional exponent (R99). -/
def decimalLiteral (cs : List Char) : Option F64 :=
  let neg := cs.head? == some '-'
  let body := if neg then cs.tail else cs
  let parts := splitFirst (fun c => c == 'e' || c == 'E') body
  let number := splitFirst (fun c => c == '.') parts.1
  let fraction := number.2.getD []
  match digitsValue 10 (number.1 ++ fraction), (parts.2.map signedValue).getD (some 0) with
  | some m, some e => some (decimalF64 neg m (e - fraction.length))
  | _, _ => none

/-- An F64 operand: a bit pattern `0x` and 16 hex digits, or a decimal literal (R99). -/
def literal (cs : List Char) : Option F64 :=
  match cs with
  | '0' :: 'x' :: digits =>
    if digits.length = 16 then (digitsValue 16 digits).map fun n => f64 (BitVec.ofNat 64 n) else none
  | _ => decimalLiteral cs

/-- All operands of a list, or none. -/
def literals : List (List Char) → Option (List Word64)
  | [] => some []
  | a :: rest =>
    match literal a, literals rest with
    | some v, some vs => some (bits64 v :: vs)
    | _, _ => none

/-- A register by its name or its decimal index (R99). -/
def registerIndex (u : UnitId) (word : List Char) : Option (BitVec 8) :=
  match (regNames u).findIdx? fun n => n.toList == word with
  | some i => some (BitVec.ofNat 8 i)
  | none =>
    match digitsValue 10 word with
    | some n => if n < 256 then some (BitVec.ofNat 8 n) else none
    | none => none

/-- The instruction of an operation, a unit and the operands as written (R99). -/
def assembleArgs (o : Op) (u : UnitId) (args : List (List Char)) : Option Instr :=
  match o, args with
  | .gets, [a] =>
    match registerIndex u a with
    | some i => build .gets u 0 i []
    | none => none
  | .gate, [['0']] => build .gate u 0 0 []
  | .gate, [['1']] => build .gate u 1 0 []
  | .setform, [a] =>
    match lookupName formNames a with
    | some f => build .setform u (f.code.setWidth 4) 0 []
    | none => none
  | .gets, _ => none
  | .gate, _ => none
  | .setform, _ => none
  | o, args =>
    match literals args with
    | some ops => build o u 0 0 ops
    | none => none

/-- A pseudo-instruction as written (R100). -/
def assemblePseudo (mnemonic : List Char) (args : List (List Char)) : Option Pseudo :=
  let stageNo := fun a => digitsValue 10 a
  match lookupName [("NOTEON", 0), ("NOTEOFF", 1), ("GETSTATE.ZLP", 2), ("GETSTATE.ZHP", 3), ("GETSTATE.LLP", 4),
      ("GETSTATE.LHP", 5), ("GETSTATE.SKH", 6), ("SETCUT.BQ", 7)] mnemonic, args with
  | some 0, [] => some .noteOn
  | some 1, [] => some .noteOff
  | some 2, [] => some .getstateZlp
  | some 3, [] => some .getstateZhp
  | some 4, [a] =>
    match stageNo a with
    | some (n + 1) => if h : n < 4 then some (.getstateLlp ⟨n, h⟩) else none
    | _ => none
  | some 5, [a] =>
    match stageNo a with
    | some (n + 1) => if h : n < 4 then some (.getstateLhp ⟨n, h⟩) else none
    | _ => none
  | some 6, [a] =>
    match stageNo a with
    | some (n + 1) => if h : n < 2 then some (.getstateSkh ⟨n, h⟩) else none
    | _ => none
  | some 7, [a] => (literal a).map .setcutBq
  | _, _ => none

/-- One line of assembler text: `MNEMONIC.UNIT operand, operand, ...`, `;` starts a comment (R99). `RDFLT` takes no
unit suffix. -/
def assemble (line : List Char) : Option Instr :=
  let text := trimBlanks (splitFirst (fun c => c == ';') line).1
  let head := splitFirst isBlank text
  let args := match head.2 with
    | none => []
    | some rest => (splitAll ',' rest).map trimBlanks
  match assemblePseudo head.1 args with
  | some p => some p.expand
  | none =>
    let name := splitFirst (fun c => c == '.') head.1
    match lookupName opNames name.1, name.2 with
    | some .rdflt, none => assembleArgs .rdflt .bq args
    | some .rdflt, some _ => none
    | some o, some suffix =>
      match lookupName unitNames suffix with
      | some u => assembleArgs o u args
      | none => none
    | _, _ => none

/-- The lines of a text that hold a command, assembled (R99: one command per line). -/
def assembleText (text : List Char) : List (Option Instr) :=
  ((splitAll '\n' text).filter fun line =>
    !(trimBlanks (splitFirst (fun c => c == ';') line).1).isEmpty).map assemble

/-- A hexadecimal digit. -/
def hexChar (d : Nat) : Char := Char.ofNat (if d < 10 then 48 + d else 55 + d)

/-- A data word as the bit pattern literal of R99. -/
def wordText (w : Word64) : List Char :=
  "0x".toList ++ ((List.range 16).map fun i => hexChar (w.toNat / 16 ^ (15 - i) % 16))

/-- The words after `-> OK`. -/
def dataText : List Word64 → List Char
  | [] => []
  | [w] => ' ' :: wordText w
  | w :: rest => ' ' :: wordText w ++ ',' :: dataText rest

/-- A response as R99 writes it, each data word as a bit pattern (log 16). -/
def Response.text (r : Response) : List Char :=
  match r.status with
  | .ok => "-> OK".toList ++ dataText r.data
  | .illegal => "-> ILLEGAL".toList
  | .notInit => "-> NOT_INIT".toList
  | .stateUndef => "-> STATE_UNDEF".toList

end Sys2Proof.Machine
end

