-- ==== Sys2Proof/Tests/Slice0.lean ====
section
/-! SUPPORT. The model's own tests: well-formedness, decoding of words written out from 30_encoding.md, single steps whose
results stand in 95_test_vectors.md, and, for every statement with hypotheses, a witness that meets them. A vector that
rests on the premises P1, P2 or SAT-ID is entered with its coefficients already in the registers, since TAN and SAT are
open. -/

namespace Sys2Proof.Tests

open Sys2Proof Sys2Proof.Machine

-- One theorem after the other: a hundred kernel evaluations at once would need as many threads.
set_option Elab.async false

/-- The state an outcome answers; the power-on state where it answers none. -/
def got (o : Host.Outcome State Fault Refusal) : State :=
  match o with
  | .next t => t
  | .fault _ => State.reset
  | .refused _ => State.reset

/-- The header and the data words of the newest response. -/
def answer (o : Host.Outcome State Fault Refusal) : Word32 × List Word64 :=
  match (got o).responses with
  | [] => (0xFFFFFFFF, [])
  | r :: _ => (r.header, r.data)

/-- Power-on with every unit initialised. -/
def on : State :=
  { State.reset with
    bq := { State.reset.bq with init := true }, zlp := { State.reset.zlp with init := true }
    zhp := { State.reset.zhp with init := true }, llp := { State.reset.llp with init := true }
    lhp := { State.reset.lhp with init := true }, skh := { State.reset.skh with init := true }
    env := { State.reset.env with init := true }, osn := { State.reset.osn with init := true }
    osa := { State.reset.osa with init := true } }

/-- BQ with the coefficients 0.5, 0.25, 0.125, -0.5, 0.25 of 95_test_vectors.md 3.3. -/
def onBq (f : Form) : State :=
  { on with bq := { on.bq with
      form := f, a0 := f64 0x3FE0000000000000, a1 := f64 0x3FD0000000000000, a2 := f64 0x3FC0000000000000
      b1 := f64 0xBFE0000000000000, b2 := f64 0x3FD0000000000000 } }

/-- BQ as the filter `y = x` in the direct form (3.7). -/
def onWire : State := { on with bq := { on.bq with form := .direct, a0 := fOne } }

/-- GG = GR = 0.5 of 4.2, and the ladder of 5.1 at FC 12000.0, SR 48000.0 with the given K. -/
def onZdf (k : F64) : State :=
  let half := f64 0x3FE0000000000000
  { on with
    zlp := { on.zlp with gg := half, gr := half }, zhp := { on.zhp with gg := half, gr := half }
    llp := { on.llp with
      k := k, gs := fOne, gg := half, gr := half, g2 := f64 0x3FD0000000000000, g3 := f64 0x3FC0000000000000
      g4 := f64 0x3FB0000000000000 }
    lhp := { on.lhp with
      k := k, gs := fOne, gg := half, gr := half, g2 := f64 0x3FD0000000000000, g3 := f64 0x3FC0000000000000
      g4 := f64 0x3FB0000000000000 } }

/-- ENV of 6.1: ATT 2.0, DEC 1.0, SUS 0.5, REL 1.0 at SR 2.0. -/
def onEnv (st : EnvState) (cnt seg dlt : Word64) (gate : Bool) : State :=
  { on with env := { on.env with
      sr := fTwo, att := fTwo, dec := fOne, sus := fHalf, rel := fOne, cnt := f64 cnt, seg := f64 seg, dlt := f64 dlt
      st := st, gate := gate } }

/-- OSN of 7.2 at the given counters: INC = 0.125. -/
def onOsn (ph tph : Word64) : State :=
  { on with osn := { on.osn with inc := f64 0x3FC0000000000000, ph := f64 ph, tph := f64 tph } }

/-- OSA of 8.1 at the given counters. -/
def onOsa (ps pt : Word64) (dir : Dir) : State :=
  { on with osa := { on.osa with
      freq := fOne, pw := fHalf, sr := f64 0x4020000000000000, d := f64 0x3FC0000000000000
      inc2 := f64 0x3FD0000000000000, sthr := f64 0x3FEC000000000000, rd := f64 0x4020000000000000, e := fZero
      elo := f64 0xBFC0000000000000, ehi := f64 0x3FC0000000000000, a := f64 0x3FE0000000000000
      b := f64 0xBFE0000000000000, tthr := f64 0x3FE8000000000000, bthr := f64 0xBFE8000000000000, rba := fNegOne
      rab := fNegOne, sawc := ⟨fZero, f64 0xC01C000000000000, f64 0x401C000000000000⟩
      pupc := ⟨fZero, f64 0x4020000000000000, f64 0xC020000000000000⟩
      pdnc := ⟨fZero, f64 0xC020000000000000, fZero⟩
      topc := ⟨f64 0xC000000000000000, f64 0x4010000000000000, f64 0xBFF2000000000000⟩
      botc := ⟨f64 0x4000000000000000, f64 0x4010000000000000, f64 0x3FF2000000000000⟩
      ps := f64 ps, pt := f64 pt, dir := dir } }

/-! Well-formedness: the last index of each unit is accepted and the next one refused (R93, and 95_test_vectors.md
2.2). -/

theorem test_wf_gets_bq : Instr.wf (.getsBq 13) = true ∧ Instr.wf (.getsBq 14) = false := by decide

theorem test_wf_gets_zlp : Instr.wf (.getsZlp 6) = true ∧ Instr.wf (.getsZlp 7) = false := by decide

theorem test_wf_gets_zhp : Instr.wf (.getsZhp 6) = true ∧ Instr.wf (.getsZhp 7) = false := by decide

theorem test_wf_gets_llp : Instr.wf (.getsLlp 14) = true ∧ Instr.wf (.getsLlp 15) = false := by decide

theorem test_wf_gets_lhp : Instr.wf (.getsLhp 14) = true ∧ Instr.wf (.getsLhp 15) = false := by decide

theorem test_wf_gets_skh : Instr.wf (.getsSkh 9) = true ∧ Instr.wf (.getsSkh 10) = false := by decide

theorem test_wf_gets_env : Instr.wf (.getsEnv 11) = true ∧ Instr.wf (.getsEnv 12) = false := by decide

theorem test_wf_gets_osn : Instr.wf (.getsOsn 7) = true ∧ Instr.wf (.getsOsn 8) = false := by decide

theorem test_wf_gets_osa : Instr.wf (.getsOsa 37) = true ∧ Instr.wf (.getsOsa 38) = false := by decide

/-! Decoding: every row of R92, its word written out as `OPC UNIT SUB IDX 00` in hexadecimal. -/

theorem test_decode_reset :
    decode ⟨0x01000000, [9]⟩ = .ok (.resetBq (f64 9)) ∧
    decode ⟨0x01100000, [10]⟩ = .ok (.resetZlp (f64 10)) ∧
    decode ⟨0x01200000, [11]⟩ = .ok (.resetZhp (f64 11)) ∧
    decode ⟨0x01300000, [12]⟩ = .ok (.resetLlp (f64 12)) ∧
    decode ⟨0x01400000, [13]⟩ = .ok (.resetLhp (f64 13)) ∧
    decode ⟨0x01500000, [14]⟩ = .ok (.resetSkh (f64 14)) ∧
    decode ⟨0x01600000, [15]⟩ = .ok (.resetEnv (f64 15)) ∧
    decode ⟨0x01700000, [16]⟩ = .ok (.resetOsn (f64 16)) ∧
    decode ⟨0x01800000, [17]⟩ = .ok (.resetOsa (f64 17)) := by
  refine ⟨rfl, rfl, rfl, rfl, rfl, rfl, rfl, rfl, rfl⟩

theorem test_decode_clr_ldcoef_rdflt :
    decode ⟨0x02000000, []⟩ = .ok .clrBq ∧
    decode ⟨0x0B000000, [1, 2, 3, 4, 5]⟩ = .ok (.ldcoefBq (f64 1) (f64 2) (f64 3) (f64 4) (f64 5)) ∧
    decode ⟨0x0C000000, []⟩ = .ok .rdflt := by
  refine ⟨rfl, rfl, rfl⟩

theorem test_decode_setp :
    decode ⟨0x03000000, [1]⟩ = .ok (.setpBq (f64 1)) ∧
    decode ⟨0x03100000, [1]⟩ = .ok (.setpZlp (f64 1)) ∧
    decode ⟨0x03200000, [1]⟩ = .ok (.setpZhp (f64 1)) ∧
    decode ⟨0x03300000, [1, 2]⟩ = .ok (.setpLlp (f64 1) (f64 2)) ∧
    decode ⟨0x03400000, [1, 2]⟩ = .ok (.setpLhp (f64 1) (f64 2)) ∧
    decode ⟨0x03500000, [1, 2]⟩ = .ok (.setpSkh (f64 1) (f64 2)) ∧
    decode ⟨0x03600000, [1, 2, 3, 4]⟩ = .ok (.setpEnv (f64 1) (f64 2) (f64 3) (f64 4)) ∧
    decode ⟨0x03700000, [1, 2, 3]⟩ = .ok (.setpOsn (f64 1) (f64 2) (f64 3)) ∧
    decode ⟨0x03800000, [1, 2, 3]⟩ = .ok (.setpOsa (f64 1) (f64 2) (f64 3)) := by
  refine ⟨rfl, rfl, rfl, rfl, rfl, rfl, rfl, rfl, rfl⟩

theorem test_decode_getp :
    decode ⟨0x04000000, []⟩ = .ok .getpBq ∧
    decode ⟨0x04100000, []⟩ = .ok .getpZlp ∧
    decode ⟨0x04200000, []⟩ = .ok .getpZhp ∧
    decode ⟨0x04300000, []⟩ = .ok .getpLlp ∧
    decode ⟨0x04400000, []⟩ = .ok .getpLhp ∧
    decode ⟨0x04500000, []⟩ = .ok .getpSkh ∧
    decode ⟨0x04600000, []⟩ = .ok .getpEnv ∧
    decode ⟨0x04700000, []⟩ = .ok .getpOsn ∧
    decode ⟨0x04800000, []⟩ = .ok .getpOsa := by
  refine ⟨rfl, rfl, rfl, rfl, rfl, rfl, rfl, rfl, rfl⟩

theorem test_decode_gets :
    decode ⟨0x05000D00, []⟩ = .ok (.getsBq 0x0D) ∧
    decode ⟨0x05100600, []⟩ = .ok (.getsZlp 0x06) ∧
    decode ⟨0x05200600, []⟩ = .ok (.getsZhp 0x06) ∧
    decode ⟨0x05300E00, []⟩ = .ok (.getsLlp 0x0E) ∧
    decode ⟨0x05400E00, []⟩ = .ok (.getsLhp 0x0E) ∧
    decode ⟨0x05500900, []⟩ = .ok (.getsSkh 0x09) ∧
    decode ⟨0x05600B00, []⟩ = .ok (.getsEnv 0x0B) ∧
    decode ⟨0x05700700, []⟩ = .ok (.getsOsn 0x07) ∧
    decode ⟨0x05802500, []⟩ = .ok (.getsOsa 0x25) := by
  refine ⟨rfl, rfl, rfl, rfl, rfl, rfl, rfl, rfl, rfl⟩

theorem test_decode_proc :
    decode ⟨0x06000000, [7]⟩ = .ok (.procBq (f64 7)) ∧
    decode ⟨0x06100000, [7]⟩ = .ok (.procZlp (f64 7)) ∧
    decode ⟨0x06200000, [7]⟩ = .ok (.procZhp (f64 7)) ∧
    decode ⟨0x06300000, [7]⟩ = .ok (.procLlp (f64 7)) ∧
    decode ⟨0x06400000, [7]⟩ = .ok (.procLhp (f64 7)) ∧
    decode ⟨0x06500000, [7]⟩ = .ok (.procSkh (f64 7)) := by
  refine ⟨rfl, rfl, rfl, rfl, rfl, rfl⟩

theorem test_decode_rend :
    decode ⟨0x07600000, []⟩ = .ok .rendEnv ∧
    decode ⟨0x07700000, []⟩ = .ok .rendOsn ∧
    decode ⟨0x07800000, []⟩ = .ok .rendOsa := by
  refine ⟨rfl, rfl, rfl⟩

theorem test_decode_gate_retrig :
    decode ⟨0x08600000, []⟩ = .ok (.gateEnv false) ∧
    decode ⟨0x08610000, []⟩ = .ok (.gateEnv true) ∧
    decode ⟨0x09700000, []⟩ = .ok .retrigOsn ∧
    decode ⟨0x09800000, []⟩ = .ok .retrigOsa := by
  refine ⟨rfl, rfl, rfl, rfl⟩

theorem test_decode_setform :
    decode ⟨0x0A000000, []⟩ = .ok (.setformBq .direct) ∧
    decode ⟨0x0A010000, []⟩ = .ok (.setformBq .canonical) ∧
    decode ⟨0x0A020000, []⟩ = .ok (.setformBq .transposedDirect) ∧
    decode ⟨0x0A030000, []⟩ = .ok (.setformBq .transposedCanonical) := by
  refine ⟨rfl, rfl, rfl, rfl⟩

/-- The command words that 95_test_vectors.md 2.2 lists as illegal. -/
theorem test_decode_illegal_words :
    ([0x00000000, 0x0D000000, 0xFF000000, 0x06000001, 0x06600000, 0x07000000, 0x02100000, 0x0B100000, 0x09600000,
      0x0C100000, 0x01900000, 0x03900000, 0x05000E00, 0x05700800, 0x05802600, 0x05010000, 0x08620000, 0x08610100,
      0x0A040000, 0x06010000, 0x04000100] : List Word32).all
        (fun cw => decodeTableWord 32 cw.toNat == none && answer (step (State.reset.present ⟨cw, []⟩)) == (1, [])) =
      true := by decide

/-- The frame of a table word: the operand count is the row's, bits past `nbits` are 0. -/
theorem test_decode_table_word :
    decodeTableWord 160 (0x02 <<< 96 + 0x01 <<< 32 + 0x03300000) = some (.setpLlp (f64 1) (f64 2)) ∧
      decodeTableWord 32 0x03700000 = some (.setpOsn (f64 0) (f64 0) (f64 0)) := by
  refine ⟨rfl, rfl⟩

/-- A frame with an operand word too few cannot be presented (R73); the model stops on it (log 7). -/
theorem test_misframed_faults : step (State.reset.present ⟨0x01000000, []⟩) = .fault .misframed := rfl

/-- A table word placed by `withFetchWord` runs in the very next step. -/
theorem test_fetch_word_runs :
    step (State.reset.withFetchWord 96 (0x3FF0000000000000 <<< 32 + 0x03000000)) = exec (.setpBq fOne) State.reset :=
  rfl

/-! Single steps of 95_test_vectors.md. -/

/-- 3.1, row 1. -/
theorem test_reset_bq :
    let b := (got (exec (.resetBq (f64 0x40E7700000000000)) State.reset)).bq
    [b.a0, b.a1, b.b1, b.b2].map bits64 = [0x3F7AA249CCA88D39, 0x3F7AA249CCA88D39, 0xBFEF9576D8CD5DCA, 0] ∧ b.init = true := by
  decide +kernel

/-- 3.3, after the first command. -/
theorem test_proc_bq_direct :
    let o := exec (.procBq fOne) (onBq .direct)
    answer o = (0x10, [0x3FE0000000000000]) ∧
      [(got o).bq.z0, (got o).bq.z1, (got o).bq.z2, (got o).bq.z3].map bits64 =
        [0x3FF0000000000000, 0, 0x3FE0000000000000, 0] := by
  decide +kernel

/-- 3.3, after the first command. -/
theorem test_proc_bq_canonical :
    let o := exec (.procBq fOne) (onBq .canonical)
    answer o = (0x10, [0x3FE0000000000000]) ∧
      [(got o).bq.z0, (got o).bq.z1, (got o).bq.z2, (got o).bq.z3].map bits64 =
        [0x3FF0000000000000, 0, 0, 0] := by
  decide +kernel

/-- 3.3, after the first command. -/
theorem test_proc_bq_transposed_direct :
    let o := exec (.procBq fOne) (onBq .transposedDirect)
    answer o = (0x10, [0x3FE0000000000000]) ∧
      [(got o).bq.z0, (got o).bq.z1, (got o).bq.z2, (got o).bq.z3].map bits64 =
        [0x3FD0000000000000, 0x3FC0000000000000, 0x3FE0000000000000, 0xBFD0000000000000] := by
  decide +kernel

/-- 3.3, after the first command. -/
theorem test_proc_bq_transposed_canonical :
    let o := exec (.procBq fOne) (onBq .transposedCanonical)
    answer o = (0x10, [0x3FE0000000000000]) ∧
      [(got o).bq.z0, (got o).bq.z1, (got o).bq.z2, (got o).bq.z3].map bits64 =
        [0x3FE0000000000000, 0, 0, 0] := by
  decide +kernel

/-- 3.7, row 2: the flush gives `+0.0` for a negative subnormal too, in Z0 as well. -/
theorem test_proc_bq_flushes :
    let o := exec (.procBq (f64 0x800FFFFFFFFFFFFF)) onWire
    answer o = (0x10, [0]) ∧ bits64 (got o).bq.z0 = 0 ∧ (got o).flt = 0 := by
  decide +kernel

/-- 3.7, row 6: an infinity passes, the response is OK and NF is set. -/
theorem test_proc_bq_infinity_sets_nf :
    let o := exec (.procBq (f64 0x7FF0000000000000)) onWire
    answer o = (0x10, [0x7FF0000000000000]) ∧ (got o).flt = 8 := by
  decide +kernel

/-- 3.6: `SETP.BQ -0.0` on FC = +0.0 does not change its sign bit. -/
theorem test_setp_bq_zero_is_memoised :
    let s := { on with bq := { on.bq with fc := fZero } }
    (got (exec (.setpBq (f64 0x8000000000000000)) s)).bq = s.bq := by
  decide +kernel

/-- 3.6, row 5. -/
theorem test_setp_bq_derives :
    let s := { on with bq := { on.bq with fc := f64 0x4069000000000000, sr := f64 0x40E7700000000000 } }
    bits64 (got (exec (.setpBq (f64 0x4059000000000000)) s)).bq.a0 = 0x3F7AA249CCA88D39 := by
  decide +kernel

/-- 3.6, rows 8 to 11. -/
theorem test_setform_bq :
    let s := got (exec (.setformBq .direct) on)
    (got (exec (.setformBq .transposedCanonical) on)).bq = on.bq ∧ s.bq.form = .direct ∧ s.bq.zv = false ∧
      answer (exec (.procBq fOne) s) = (3, []) ∧ (got (exec (.procBq fOne) s)).flt = 4 := by
  decide +kernel

/-- 3.6, rows 3 and 12. -/
theorem test_clr_ldcoef_bq :
    (got (exec .clrBq { on with bq := { on.bq with z0 := fOne, zv := false } })).bq = on.bq ∧
      bits64 (got (exec (.ldcoefBq fZero fZero fZero fNegOne fTwo) on)).bq.b1 = 0xBFF0000000000000 := by
  decide +kernel

/-- 4.2: the output 0.5 and the pre-output state 1.0. -/
theorem test_proc_zlp :
    let o := exec (.procZlp fOne) (onZdf fZero)
    answer o = (0x10, [0x3FE0000000000000]) ∧ bits64 (got o).zlp.s = 0x3FF0000000000000 := by
  decide +kernel

/-- 4.2. -/
theorem test_proc_zhp :
    let o := exec (.procZhp fOne) (onZdf fZero)
    answer o = (0x10, [0x3FE0000000000000]) ∧ bits64 (got o).zhp.s = 0x3FF0000000000000 := by
  decide +kernel

/-- 5.1, LLP at RES 1.0 (K = 4.0). -/
theorem test_proc_llp :
    let o := exec (.procLlp fOne) (onZdf (f64 0x4010000000000000))
    answer o = (0x10, [0x3FA999999999999A]) ∧ [(got o).llp.s1, (got o).llp.s4].map bits64 =
      [0x3FE999999999999A, 0x3FB999999999999A] := by
  decide +kernel

/-- 5.1, LHP at RES 0.5 (K = 2.0). -/
theorem test_proc_lhp :
    let o := exec (.procLhp fOne) (onZdf fTwo)
    answer o = (0x10, [0x3FAC71C71C71C71C]) ∧ [(got o).lhp.s1, (got o).lhp.s4].map bits64 =
      [0x3FEC71C71C71C71C, 0x3FBC71C71C71C71C] := by
  decide +kernel

/-- 5.3: with K = 0 the operand `-0.0` gives `+0.0`. -/
theorem test_proc_llp_negative_zero :
    answer (exec (.procLlp (f64 0x8000000000000000)) (onZdf fZero)) = (0x10, [0]) := by
  decide +kernel

/-- 60_exceptions.md R234. -/
theorem test_proc_skh_not_init :
    answer (exec (.procSkh fOne) State.reset) = (2, []) ∧ (got (exec (.procSkh fOne) State.reset)).flt = 2 := by
  decide +kernel

/-- Before `RESET` a `SETP` stores its parameters and derives nothing (10_state.md R53). -/
theorem test_setp_before_reset :
    let t := got (exec (.setpOsn fOne fTwo fHalf) (got (exec (.setpSkh fOne fTwo) (got (exec (.setpLlp fOne fTwo) (got
      (exec (.setpZlp fOne) State.reset)))))))
    t.zlp = { State.reset.zlp with fc := fOne } ∧ t.llp = { State.reset.llp with fc := fOne, res := fTwo } ∧
      t.skh = { State.reset.skh with fc := fOne, res := fTwo } ∧
      t.osn = { State.reset.osn with freq := fOne, pw := fTwo, phs := fHalf } := by
  decide +kernel

/-- 6.1, render 2. -/
theorem test_rend_env_gate_starts_attack :
    let o := exec .rendEnv (onEnv .idle 0 0 0 true)
    answer o = (0x10, [0]) ∧ (got o).env.st = .attack ∧ bits64 (got o).env.dlt = 0x3FC5555555555555 := by
  decide +kernel

/-- 6.1, render 6. -/
theorem test_rend_env_attack_to_decay :
    let o := exec .rendEnv (onEnv .attack 0x3FE0000000000000 0 0x3FC5555555555555 true)
    answer o = (0x10, [0x4020F876CCDF6CDA]) ∧ (got o).env.st = .decay ∧ bits64 (got o).env.cnt = 0 ∧
      bits64 (got o).env.dlt = 0x3FE0000000000000 := by
  decide +kernel

/-- 6.4: with the gate at 0 render 6 enters Release from its own sample. -/
theorem test_rend_env_gate_has_priority :
    let o := exec .rendEnv (onEnv .attack 0x3FE0000000000000 0 0x3FC5555555555555 false)
    (got o).env.st = .release ∧ bits64 (got o).env.seg = 0x4020F876CCDF6CDA := by
  decide +kernel

/-- 6.1, render 9. -/
theorem test_rend_env_decay_to_sustain :
    let o := exec .rendEnv (onEnv .decay 0x3FF0000000000000 0 0x3FE0000000000000 true)
    answer o = (0x10, [0x4010000000000000]) ∧ (got o).env.st = .sustain ∧ bits64 (got o).env.cnt = 0x3FF8000000000000 := by
  decide +kernel

/-- 6.1, render 14. -/
theorem test_rend_env_release_to_idle :
    let o := exec .rendEnv (onEnv .release 0x3FF0000000000000 0x4010000000000000 0x3FE0000000000000 false)
    answer o = (0x10, [0]) ∧ (got o).env.st = .idle := by
  decide +kernel

/-- R171. -/
theorem test_reset_env_keeps_the_parameters :
    (got (exec (.resetEnv fOne) (onEnv .release 1 2 3 true))).env =
      { on.env with sr := fOne, att := fTwo, dec := fOne, sus := fHalf, rel := fOne } := by
  decide

/-- 2.1, R172, R173, R184. -/
theorem test_gate_setp_getp_env :
    let t := got (exec (.setpEnv (f64 1) (f64 2) (f64 3) (f64 4)) (got (exec (.gateEnv true) State.reset)))
    t.env.gate = true ∧ answer (exec .getpEnv t) = (0x40, [1, 2, 3, 4]) := by
  decide

/-- 7.1. -/
theorem test_reset_osn :
    let t := got (exec (.resetOsn (f64 0x40E7700000000000)) State.reset)
    [t.osn.inc, t.osn.ph, t.osn.tph].map bits64 = [0x3F82C5F92C5F92C6, 0, 0x3FE0000000000000] := by
  decide +kernel

/-- 7.2, the eighth render: both counters of the ninth. -/
theorem test_rend_osn :
    let o := exec .rendOsn (onOsn 0x3FEC000000000000 0x3FD8000000000000)
    answer o = (0x30, [0x3FE8000000000000, 0xBFE0000000000000, 0xBFF0000000000000]) ∧
      [(got o).osn.ph, (got o).osn.tph].map bits64 = [0, 0x3FE0000000000000] := by
  decide +kernel

/-- R193: TPH wraps where PHS + 0.5 reaches 1. -/
theorem test_retrig_osn :
    let t := got (exec .retrigOsn { on with osn := { on.osn with phs := f64 0x3FE8000000000000 } })
    [t.osn.ph, t.osn.tph].map bits64 = [0x3FE8000000000000, 0x3FD0000000000000] := by
  decide +kernel

/-- 8.1: part of the derivation. -/
theorem test_reset_osa :
    let s := { on with osa := { on.osa with freq := fOne } }
    let u := (got (exec (.resetOsa (f64 0x4020000000000000)) s)).osa
    [u.d, u.sthr, u.a, u.b, u.rba, u.topc.c2, u.topc.c1, u.topc.c0, u.botc.c0, u.pdnc.c1, u.ps, u.pt].map bits64 =
      [0x3FC0000000000000, 0x3FEC000000000000, 0x3FE0000000000000, 0xBFE0000000000000, 0xBFF0000000000000,
        0xC000000000000000, 0x4010000000000000, 0xBFF2000000000000, 0x3FF2000000000000, 0xC020000000000000,
        0xBFF0000000000000, 0xBFF0000000000000] := by
  decide +kernel

/-- 8.1, row 5. -/
theorem test_rend_osa_edge_and_top_corner :
    let o := exec .rendOsa (onOsa 0 0x3FF0000000000000 .up)
    answer o = (0x30, [0, 0x3FEC000000000000, 0]) ∧ bits64 (got o).osa.ps = 0x3FD0000000000000 ∧
      bits64 (got o).osa.pt = 0x3FE0000000000000 ∧ (got o).osa.dir = .down := by
  decide +kernel

/-- 8.1, row 9. -/
theorem test_rend_osa_wrap_and_bottom_corner :
    let o := exec .rendOsa (onOsa 0x3FF0000000000000 0xBFF0000000000000 .down)
    answer o = (0x30, [0, 0xBFEC000000000000, 0]) ∧ bits64 (got o).osa.ps = 0xBFE8000000000000 ∧
      bits64 (got o).osa.pt = 0xBFE0000000000000 ∧ (got o).osa.dir = .up := by
  decide +kernel

/-- 8.4: a new PHS alone derives nothing; `RETRIG` applies it. -/
theorem test_setp_retrig_osa :
    let s := onOsa 0 0 .down
    let t := got (exec (.setpOsa fOne fHalf fHalf) s)
    t.osa = { s.osa with phs := fHalf } ∧ [(got (exec .retrigOsa s)).osa.ps, (got (exec .retrigOsa s)).osa.pt].map bits64 =
      [0xBFF0000000000000, 0xBFF0000000000000] ∧ (got (exec .retrigOsa t)).osa.dir = .down := by
  decide +kernel

/-- 2.1: power-on readback. -/
theorem test_gets :
    answer (exec (.getsBq 13) State.reset) = (0x10, [1]) ∧ answer (exec (.getsOsa 37) State.reset) = (0x10, [0]) ∧
      answer (exec (.getsEnv 3) State.reset) = (0x10, [0x3FD999999999999A]) ∧
      answer (exec (.getsBq 11) State.reset) = (0x10, [3]) ∧ answer (exec (.getsOsa 14) State.reset) = (0x10, [0]) := by
  decide

/-- R224. -/
theorem test_rdflt :
    answer (exec .rdflt { on with flt := 0b1010 }) = (0x10, [10]) := by
  decide

/-- R132: GS is TAN of `(PI*FC)/SR`, here `PI`, with nothing known of TAN. -/
theorem test_tan_is_applied_to_the_quotient :
    let t := got (exec (.resetZhp fOne) { on with zhp := { on.zhp with fc := fOne } })
    t.zhp.gs = Config.tan cPi ∧ t.zhp.gg = t.zhp.gr := by
  have h (n m : F64) : F64.div n (F64.mul m cPi fOne) fOne = cPi := by
    have h1 : F64.mul m cPi fOne = cPi := by
      unfold F64.mul
      rw [if_neg (by decide), if_neg (by decide)]
      decide +kernel
    rw [h1]
    unfold F64.div
    rw [if_neg (by decide), if_neg (by decide), if_neg (by decide), if_neg (by decide)]
    decide +kernel
  exact ⟨congrArg Config.tan (h _ _), rfl⟩

/-! The arithmetic (00_scope.md R8 to R12, R15) at its edges. The expected patterns are IEEE 754's. -/

theorem test_add_ties_to_even :
    bits64 (F64.add fZero fOne (f64 0x3CA0000000000000)) = 0x3FF0000000000000 ∧
      bits64 (F64.add fZero (f64 0x3FF0000000000001) (f64 0x3CA0000000000000)) = 0x3FF0000000000002 := by
  decide +kernel

theorem test_add_overflows :
    bits64 (F64.add fZero (f64 0x7FEFFFFFFFFFFFFF) (f64 0x7FEFFFFFFFFFFFFF)) = 0x7FF0000000000000 := by decide +kernel

theorem test_mul_underflows_gradually :
    bits64 (F64.mul fZero (f64 0x0010000000000000) (f64 0xBFE0000000000000)) = 0x8008000000000000 := by decide +kernel

theorem test_div_rounds : bits64 (F64.div fZero fOne (f64 0x4008000000000000)) = 0x3FD5555555555555 := by
  decide +kernel

theorem test_sqrt_rounds :
    bits64 (F64.sqrt fZero fTwo) = 0x3FF6A09E667F3BCD ∧
      bits64 (F64.sqrt fZero (f64 0x8000000000000000)) = 0x8000000000000000 := by
  decide +kernel

theorem test_compare_zeros_and_nan :
    F64.eq fZero (f64 0x8000000000000000) = true ∧ F64.le (f64 0x7FF8000000000000) fOne = false ∧
      F64.ne (f64 0x7FF8000000000000) (f64 0x7FF8000000000000) = true := by decide

/-! The text of a command (30_encoding.md R99). -/

theorem test_assemble :
    assemble "SETP.BQ 0x3FF0000000000000 ; cutoff".toList = some (.setpBq fOne) ∧
      assemble "GETS.ENV SUS".toList = some (.getsEnv 3) ∧ assemble "NOTEON".toList = some (.gateEnv true) ∧
      assemble "SETP.LLP 0x3FF0000000000000".toList = none ∧ assemble "GATE.ENV 2".toList = none := by decide

theorem test_assemble_decimal :
    assemble "SETP.ENV 0.1, 0.1, 0.5, 2e-1".toList = some (.setpEnv (f64 0x3FB999999999999A) (f64 0x3FB999999999999A)
      (f64 0x3FE0000000000000) (f64 0x3FC999999999999A)) := by decide +kernel

/-! Witnesses: for every statement with hypotheses, a state and operands that meet them together; one for each clause. -/

theorem witness_EncodedInstructionDecodesBack :
    Instr.wf (.getsOsa 37) = true ∧ Instr.wf (.procBq fOne) = true := by
  decide

theorem witness_DecodedFrameIsTheEncoding :
    decode ⟨0x05802500, []⟩ = .ok (.getsOsa 37) ∧ decode ⟨0x06000000, [1]⟩ = .ok (.procBq (f64 1)) := by
  exact ⟨rfl, rfl⟩

/-- Both sides of the boundary of a `GETS` index and of the SUB field. -/
theorem witness_AcceptedCommandWords :
    decode ⟨0x05000D00, []⟩ = .ok (.getsBq 13) ∧ decode ⟨0x05000E00, []⟩ = .error .indexPastLast ∧
      decode ⟨0x0A030000, []⟩ = .ok (.setformBq .transposedCanonical) ∧ decode ⟨0x0A040000, []⟩ = .error .subField := by
  exact ⟨rfl, rfl, rfl, rfl⟩

/-- The all-zero word. -/
theorem witness_IllegalWordSetsIllOnly :
    ¬∃ i : Instr, i.wf = true ∧ (encode i).cw = 0x00000000 := by
  rintro ⟨i, -, h⟩
  have h1 : opcField (encode i).cw ≠ 0 := by cases i <;> simp only [encode, opcField_mkFrame] <;> decide
  exact h1 (by rw [h]; decide)

theorem witness_StepRunsTheDecodedInstruction :
    (State.reset.present ⟨0x0C000000, []⟩).accept = some (⟨0x0C000000, []⟩, State.reset) ∧ decode ⟨0x0C000000, []⟩ = .ok .rdflt := by
  exact ⟨rfl, rfl⟩

theorem witness_PortMergesTheTwoContexts :
    State.reset.audio = [] ∧ State.reset.control = [] ∧ (State.reset.present ⟨0x0C000000, []⟩).audio ≠ [] := by
  decide

theorem witness_ResponseHeaderLayout :
    (⟨.ok, [1, 2, 3, 4]⟩ : Response).data.length ≤ 4 := by
  decide

theorem witness_OneResponseAndRefusalsChangeOnlyFlt :
    exec (.procBq fOne) State.reset = .next (got (exec (.procBq fOne) State.reset)) ∧
      (⟨.notInit, []⟩ : Response).status ≠ .ok := by
  exact ⟨rfl, by decide⟩

/-- The memoised clause, then the two that store; a NaN always stores. -/
theorem witness_SetpBqIsMemoised :
    F64.eq (f64 0x4059000000000000) on.bq.fc = true ∧ on.bq.init = true ∧ F64.eq fOne on.bq.fc = false ∧
      State.reset.bq.init = false ∧ F64.eq fOne State.reset.bq.fc = false := by
  decide

theorem witness_ProcBqDirectForm :
    (onBq .direct).bq.init = true ∧ (onBq .direct).bq.zv = true ∧ (onBq .direct).bq.form = .direct := by
  decide

theorem witness_ProcBqCanonicalForm :
    (onBq .canonical).bq.init = true ∧ (onBq .canonical).bq.zv = true ∧ (onBq .canonical).bq.form = .canonical := by
  decide

theorem witness_ProcBqTransposedDirectForm :
    (onBq .transposedDirect).bq.init = true ∧ (onBq .transposedDirect).bq.zv = true ∧ (onBq .transposedDirect).bq.form = .transposedDirect := by
  decide

theorem witness_ProcBqTransposedCanonicalForm :
    (onBq .transposedCanonical).bq.init = true ∧ (onBq .transposedCanonical).bq.zv = true ∧ (onBq .transposedCanonical).bq.form = .transposedCanonical := by
  decide

/-- All eleven clauses that need INIT = 0 hold in the power-on state. -/
theorem witness_AudioCommandsNeedResetAndValidState :
    (∀ u : UnitId, State.reset.init u = false) ∧ on.bq.init = true ∧
      ({ on.bq with zv := false } : Bq).zv = false := by
  exact ⟨fun u => by cases u <;> rfl, by decide, by decide⟩

/-- The last index and the one past it. -/
theorem witness_RegisterReadbackOfTheFilters :
    (13#8).toNat < State.reset.bq.words.length ∧ State.reset.bq.words.length ≤ (14#8).toNat ∧
      (6#8).toNat < State.reset.zlp.words.length ∧ State.reset.zhp.words.length ≤ (7#8).toNat ∧
      (14#8).toNat < State.reset.llp.words.length ∧ State.reset.lhp.words.length ≤ (15#8).toNat ∧
      (9#8).toNat < State.reset.skh.words.length ∧ State.reset.skh.words.length ≤ (10#8).toNat := by
  decide

/-- The last index and the one past it. -/
theorem witness_RegisterReadbackOfTheGenerators :
    (11#8).toNat < State.reset.env.words.length ∧ State.reset.env.words.length ≤ (12#8).toNat ∧
      (7#8).toNat < State.reset.osn.words.length ∧ State.reset.osn.words.length ≤ (8#8).toNat ∧
      (37#8).toNat < State.reset.osa.words.length ∧ State.reset.osa.words.length ≤ (38#8).toNat := by
  decide

theorem witness_ZdfResetAndParameters :
    State.reset.zlp.init = false ∧ on.zlp.init = true ∧ State.reset.zhp.init = false ∧ on.zhp.init = true := by
  decide

theorem witness_LadderResetAndParameters :
    State.reset.llp.init = false ∧ on.llp.init = true ∧ State.reset.lhp.init = false ∧ on.lhp.init = true := by
  decide

theorem witness_SkhResetAndParameters :
    State.reset.skh.init = false ∧ on.skh.init = true := by
  decide

theorem witness_ProcZdfRunsOneStage :
    on.zlp.init = true ∧ on.zhp.init = true := by
  decide

theorem witness_ProcLlpSolvesTheLoop :
    on.llp.init = true := by
  decide

theorem witness_ProcLhpSolvesTheLoop :
    on.lhp.init = true := by
  decide

theorem witness_ProcSkhSolvesTheLoopAndSaturates :
    on.skh.init = true := by
  decide

theorem witness_RendEnvIdleAndSustain :
    (onEnv .idle 0 0 0 true).env.init = true ∧ (onEnv .idle 0 0 0 true).env.st = .idle ∧
      (onEnv .sustain 0 0 0 false).env.st = .sustain := by
  decide

theorem witness_RendEnvAttack :
    (onEnv .attack 0 0 0 true).env.init = true ∧ (onEnv .attack 0 0 0 true).env.st = .attack := by
  decide

theorem witness_RendEnvDecay :
    (onEnv .decay 0 0 0 true).env.init = true ∧ (onEnv .decay 0 0 0 true).env.st = .decay := by
  decide

theorem witness_RendEnvRelease :
    (onEnv .release 0 0 0 true).env.init = true ∧ (onEnv .release 0 0 0 true).env.st = .release := by
  decide

theorem witness_OsnResetParametersAndRetrigger :
    State.reset.osn.init = false ∧ on.osn.init = true := by
  decide

theorem witness_RendOsnWaveformsAndAdvance :
    on.osn.init = true := by
  decide

theorem witness_OsaParametersAndRetrigger :
    State.reset.osa.init = false ∧ on.osa.init = true ∧ F64.ne on.osa.freq on.osa.freq = false ∧
      F64.ne on.osa.pw on.osa.pw = false ∧ F64.ne fOne on.osa.freq = true := by
  decide

theorem witness_RendOsaCorrectsTheEdges :
    on.osa.init = true := by
  decide

/-- A state with `PROC.BQ 1.0` pending. -/
def pending : State := on.present ⟨0x06000000, [0x3FF0000000000000]⟩

theorem witness_FaultFlagsAreSticky :
    step { pending with flt := 0b0001 } = .next (got (step { pending with flt := 0b0001 })) ∧
      ({ pending with flt := 0b0001 } : State).flt.getLsbD 0 = true := by
  exact ⟨rfl, by decide⟩

theorem witness_InitIsSetByResetOnly :
    exec (.resetEnv fOne) State.reset = .next (got (exec (.resetEnv fOne) State.reset)) := by
  rfl

theorem witness_StateRegistersHoldNoSubnormal :
    pending.flushed = true ∧ step pending = .next (got (step pending)) := by
  exact ⟨by decide, rfl⟩

theorem witness_NonFiniteStateIsRecorded :
    pending.finiteUntilNf = true ∧ step pending = .next (got (step pending)) := by
  exact ⟨by decide, rfl⟩

theorem witness_UntouchedUnitsKeepPowerOnValues :
    (State.reset.present ⟨0x01600000, [0x3FF0000000000000]⟩).untouched = true ∧
      step (State.reset.present ⟨0x01600000, [0x3FF0000000000000]⟩) =
        .next (got (step (State.reset.present ⟨0x01600000, [0x3FF0000000000000]⟩))) := by
  exact ⟨by decide, rfl⟩

theorem witness_CoefficientsFollowTheParameters :
    (State.reset.present ⟨0x03100000, [0x3FF0000000000000]⟩).cached ∧
      step (State.reset.present ⟨0x03100000, [0x3FF0000000000000]⟩) =
        .next (got (step (State.reset.present ⟨0x03100000, [0x3FF0000000000000]⟩))) := by
  refine ⟨⟨?_, ?_, ?_, ?_, ?_, ?_⟩, rfl⟩ <;> exact fun h => absurd h (by decide)

/-- ZLP with the gains that its FC and SR give, whatever TAN is: the clause of an initialised unit can be met. -/
theorem witness_CoefficientsFollowTheParameters_initialised :
    let nan := f64 0x7FF8000000000000
    let gs := Config.tan (F64.div nan (F64.mul nan cPi fOne) fOne)
    let den := F64.add nan fOne gs
    let s := { State.reset with
      zlp := ⟨fOne, fOne, gs, F64.div nan gs den, F64.div nan fOne den, fZero, true⟩ }
    s.zlp.init = true ∧ s.cached := by
  refine ⟨rfl, fun _ => ⟨fun _ => f64 0x7FF8000000000000, fun _ => show (f64 0x7FF8000000000000).isNaN = true by decide, rfl, rfl, rfl⟩, ?_, ?_, ?_, ?_, ?_⟩ <;>
    exact fun h => absurd h (by simp [State.reset, zdfReset, ladderReset, skhReset, osnReset])

theorem witness_CommandsOfDifferentUnitsCommute :
    unitOf .rendEnv = some .env ∧ unitOf (.procBq fOne) = some .bq ∧ UnitId.env ≠ .bq := by
  decide

theorem witness_NfIsSetByTheListedCommandsOnly :
    let i := Instr.procBq (f64 0x7FF0000000000000)
    exec i onWire = .next (got (exec i onWire)) ∧ onWire.flt.getLsbD 3 = false ∧
      (got (exec i onWire)).flt.getLsbD 3 = true := by
  exact ⟨rfl, by decide, by decide +kernel⟩

theorem witness_FramedRunsNeverStop :
    pending.framed = true := by
  decide

theorem witness_AudioOutputsAreNoSubnormals :
    audioRate (.procZlp fOne) = true ∧ exec (.procZlp fOne) on = .next (got (exec (.procZlp fOne) on)) ∧
      ∃ r : Response, (got (exec (.procZlp fOne) on)).responses = r :: on.responses ∧ r.data.length = 1 := by
  exact ⟨by decide, rfl, _, rfl, rfl⟩

theorem witness_FlushSnapsSubnormalsToZero :
    (f64 0x800FFFFFFFFFFFFF).expField = 0 ∧ (f64 0x800FFFFFFFFFFFFF).fracField ≠ 0 ∧
      (f64 0x0010000000000000).expField ≠ 0 ∧ (f64 0x8000000000000000).fracField = 0 := by
  decide

theorem witness_AdditionAndSubtractionRoundOnce :
    fOne.finite = true ∧ fNegOne.finite = true ∧ fOne.val + fNegOne.val = 0 := by
  exact ⟨by decide, by decide, by decide +kernel⟩

theorem witness_MultiplicationAndDivisionRoundOnce :
    (f64 0x7FEFFFFFFFFFFFFF).finite = true ∧ (f64 0x0000000000000001).finite = true ∧
      (f64 0x0000000000000001).isZero = false := by
  decide

theorem witness_SquareRootIsCorrectlyRounded :
    (f64 0x0000000000000001).finite = true ∧ (f64 0x0000000000000001).sign = false := by
  decide

/-- Every clause takes its operands from these. -/
theorem witness_NanAndInfinityResults :
    (f64 0xFFF8000000000000).isNaN = true ∧ (f64 0x7FF0000000000000).isInf = true ∧
      (f64 0xFFF0000000000000).isInf = true ∧ (f64 0x7FF0000000000000).sign ≠ (f64 0xFFF0000000000000).sign ∧
      fOne.finite = true ∧ fOne.isZero = false ∧ (f64 0x8000000000000000).isZero = true ∧
      fZero.finite = true ∧ fNegOne.isNaN = false ∧ fNegOne.isZero = false ∧ fNegOne.sign = true ∧
      (f64 0x7FF0000000000000).sign = false := by
  decide

theorem witness_ComparisonsFollowTheValues :
    (f64 0x7FF8000000000000).isNaN = true ∧ fZero.finite = true ∧ (f64 0x8000000000000000).finite = true ∧
      (f64 0x7FF0000000000000).isInf = true ∧ (f64 0xFFF0000000000000).isInf = true := by
  decide

theorem witness_LadderAtZeroResonanceIsACascade :
    let s := onZdf fZero
    fOne ≠ f64 0x8000000000000000 ∧ s.flt.getLsbD 3 = false ∧ s.llp.init = true ∧ s.llp.k = fZero ∧
      exec (.procLlp fOne) s = .next (got (exec (.procLlp fOne) s)) ∧
      (got (exec (.procLlp fOne) s)).flt.getLsbD 3 = false ∧ s.lhp.init = true ∧ s.lhp.k = fZero ∧
      exec (.procLhp fOne) s = .next (got (exec (.procLhp fOne) s)) ∧
      (got (exec (.procLhp fOne) s)).flt.getLsbD 3 = false := by
  exact ⟨by decide, by decide, by decide, by decide, rfl, by decide +kernel, by decide, by decide, rfl, by decide +kernel⟩

theorem witness_EnvelopeSegmentsStartWithoutAJump_release :
    let s := onEnv .sustain 0 0 0 false
    let t := got (exec .rendEnv s)
    s.env.init = true ∧ s.env.st = .sustain ∧ t.env.st = .release ∧ exec .rendEnv s = .next t ∧
      t.responses = ⟨.ok, [bits64 t.env.out]⟩ :: s.responses ∧ t.env.out.finite = true := by
  exact ⟨by decide, by decide, by decide +kernel, rfl, by decide +kernel, by decide +kernel⟩

theorem witness_EnvelopeSegmentsStartWithoutAJump_retrigger :
    let s := onEnv .release 0x3FE0000000000000 0x4010000000000000 0x3FE0000000000000 true
    let t := got (exec .rendEnv s)
    s.env.init = true ∧ s.env.st = .release ∧ t.env.st = .attack ∧ exec .rendEnv s = .next t ∧
      t.responses = ⟨.ok, [bits64 t.env.out]⟩ :: s.responses ∧ t.env.out.finite = true := by
  exact ⟨by decide, by decide, by decide +kernel, rfl, by decide +kernel, by decide +kernel⟩

theorem witness_EnvelopeSegmentsStartWithoutAJump_decay :
    let s := onEnv .attack 0x3FE0000000000000 0 0x3FC5555555555555 true
    let t := got (exec .rendEnv s)
    s.env.init = true ∧ s.env.st = .attack ∧ t.env.st = .decay ∧ exec .rendEnv s = .next t ∧
      t.responses = ⟨.ok, [bits64 t.env.out]⟩ :: s.responses ∧ t.env.out.finite = true := by
  exact ⟨by decide, by decide, by decide +kernel, rfl, by decide +kernel, by decide +kernel⟩

theorem witness_SkhAtZeroResonanceFiltersTheSaturatedInput :
    on.skh.init = true ∧ on.skh.k = fZero ∧ fOne.isNaN = false ∧ fOne ≠ f64 0x8000000000000000 ∧
      on.skh.gm.finite = true ∧ ∀ n : Nat → F64, AllNaN n →
        (F64.sub (n 2) (F64.mul (n 0) on.skh.gm on.skh.s1) (F64.mul (n 1) on.skh.gg on.skh.s2)).finite = true := by
  have h (n : F64) : F64.mul n (F64.zero false) (F64.zero false) = F64.zero false :=
    f64_mul_posZero n _ (by decide)
  refine ⟨by decide, by decide, by decide, by decide, by decide, fun n _ => ?_⟩
  change (F64.sub (n 2) (F64.mul (n 0) (F64.zero false) (F64.zero false))
    (F64.mul (n 1) (F64.zero false) (F64.zero false))).finite = true
  rw [h, h, f64_sub_zero _ _ _ (by decide) (by decide)]
  decide

theorem witness_OsnPhaseStaysInTheUnitInterval :
    let s := onOsn 0x3FEFFFFFFFFFFFFF 0
    s.osn.init = true ∧ exec .rendOsn s = .next (got (exec .rendOsn s)) ∧
      ∀ v ∈ [s.osn.ph, s.osn.tph, s.osn.inc], F64.le fZero v = true ∧ F64.lt v fOne = true := by
  exact ⟨by decide, rfl, by decide⟩

end Sys2Proof.Tests
end

section
/-! PROOFS. O43, the recording of non-finite state. The invariant is stated once on the work of a command. It is kept by
each operation that stores or returns a value, hence by every rule, by running a rule on its slot, by `exec` and by
`step`. -/

namespace Sys2Proof.Machine

section Calculus

variable {U α : Type}

/-- `finiteUntilNf` for one unit: the command has set NF, or all registers listed by `L` are finite. A structure, so that
unification does not look inside. -/
structure Recorded (L : U → List F64) (w : Work U) : Prop where
  nf_or_finite : w.flags.getLsbD 3 = true ∨ ∀ v ∈ L w.regs, v.finite = true

/-- A computation that keeps the record. -/
def KeepsRecord (L : U → List F64) (c : Calc U α) : Prop := ∀ w, Recorded L w → Recorded L (c w).2

/-- Among the registers listed by `L`, a write of `r` changes none but `r` itself. -/
def StoresOnly (L : U → List F64) (r : Reg U) : Prop := ∀ v u, ∀ x ∈ L (r.set v u), x = v ∨ x ∈ L u

variable {L : U → List F64} {r : Reg U} {w : Work U}

theorem recorded_of_finite (h : ∀ v ∈ L w.regs, v.finite = true) : Recorded L w := ⟨.inr h⟩

/-- An arithmetic operation keeps the record. -/
theorem Recorded.tick (h : Recorded L w) : Recorded L w.tick := ⟨h.nf_or_finite⟩

/-- Plain writes to registers that `L` does not list keep the record. -/
theorem Recorded.plain (h : Recorded L w) {f : U → U} (hf : ∀ u, L (f u) = L u) : Recorded L (plain f w).2 := by
  refine ⟨?_⟩
  rw [plain_apply, hf]
  exact h.nf_or_finite

/-- `out` keeps the record (R14). -/
theorem Recorded.out (h : Recorded L w) (v : F64) : Recorded L (out v w).2 := by
  rcases h with ⟨hnf | hfin⟩
  · exact ⟨.inl (by simp [hnf])⟩
  · exact ⟨.inr hfin⟩

/-- A store that sets the NF bit of its value keeps the record (R13). -/
theorem Recorded.store (h : Recorded L w) (hr : StoresOnly L r) (v : F64) (n : Nat) :
    Recorded L { w with regs := r.set v w.regs, draws := n, flags := w.flags ||| nfFlag v } := by
  rcases h with ⟨hnf | hfin⟩
  · exact ⟨.inl (by simp [hnf])⟩
  cases hv : v.finite
  · exact ⟨.inl (by simp [nfFlag, hv, fltNf])⟩
  · refine ⟨.inr fun x hx => ?_⟩
    rcases hr v w.regs x hx with rfl | hold
    · exact hv
    · exact hfin x hold

/-- `wr` keeps the record (R13). -/
theorem Recorded.wr (h : Recorded L w) (hr : StoresOnly L r) (v : F64) : Recorded L (wr r v w).2 :=
  h.store hr v.flush w.draws

/-- A stage of either kind stores its state by `wr` (R131). -/
theorem Recorded.stage (h : Recorded L w) (hr : StoresOnly L r) (kind : StageKind) (g x : F64) :
    Recorded L (stage kind g r x w).2 := by
  cases kind
  · exact h.store hr _ _
  · exact h.store hr _ _

/-- The shape of a `SETP` rule: the parameters are written, and an initialised unit derives its coefficients (R135, R149,
R159, R192). -/
theorem keepsRecord_setp {f : U → U} {init : U → Bool} {derive : Calc U Unit} (hf : ∀ u, L (f u) = L u)
    (hd : KeepsRecord L derive) : KeepsRecord L (do
      plain f
      if init (← regs) then derive
      return ([] : List Word64)) := by
  intro w h
  cases hi : init (f w.regs)
  · simp only [calc_bind, regs_apply, plain_apply, hi, Bool.false_eq_true, ↓reduceIte]
    exact h.plain hf
  · simp only [calc_bind, regs_apply, plain_apply, hi, ↓reduceIte]
    exact hd _ (h.plain hf)

end Calculus

section Biquad

/-- The state-class registers of BQ (R33, R34). -/
def Bq.states (u : Bq) : List F64 := [u.z0, u.z1, u.z2, u.z3]

theorem regZ0_storesOnly : StoresOnly Bq.states regZ0 := by simp +contextual [StoresOnly, Bq.states, regZ0]
theorem regZ1_storesOnly : StoresOnly Bq.states regZ1 := by simp +contextual [StoresOnly, Bq.states, regZ1]
theorem regZ2_storesOnly : StoresOnly Bq.states regZ2 := by simp +contextual [StoresOnly, Bq.states, regZ2]
theorem regZ3_storesOnly : StoresOnly Bq.states regZ3 := by simp +contextual [StoresOnly, Bq.states, regZ3]

theorem ruleClrBq_keeps : KeepsRecord Bq.states ruleClrBq := fun _ _ =>
  recorded_of_finite (by simp [ruleClrBq, clearBq, Bq.states]; decide)

theorem ruleResetBq_keeps (sr : F64) : KeepsRecord Bq.states (ruleResetBq sr) := fun w h =>
  ⟨(ruleClrBq_keeps w h).nf_or_finite⟩

theorem ruleSetpBq_keeps (fc : F64) : KeepsRecord Bq.states (ruleSetpBq fc) := by
  intro w h
  cases hne : F64.ne fc w.regs.fc
  · simpa [ruleSetpBq, hne] using h
  cases hi : w.regs.init
  · simp only [ruleSetpBq, calc_bind, regs_apply, plain_apply, hne, hi, ↓reduceIte]
    exact ⟨h.nf_or_finite⟩
  · simp only [ruleSetpBq, calc_bind, regs_apply, hne, hi, ↓reduceIte]
    exact ⟨h.nf_or_finite⟩

theorem ruleLdcoefBq_keeps (a0 a1 a2 b1 b2 : F64) : KeepsRecord Bq.states (ruleLdcoefBq a0 a1 a2 b1 b2) :=
  fun _ h => ⟨h.nf_or_finite⟩

theorem ruleSetformBq_keeps (f : Form) : KeepsRecord Bq.states (ruleSetformBq f) := by
  intro w h
  by_cases hf : f = w.regs.form
  · simpa [ruleSetformBq, hf] using h
  · simp only [ruleSetformBq, calc_bind, regs_apply, hf, ne_eq, not_false_eq_true, ↓reduceIte]
    exact ⟨h.nf_or_finite⟩

/-- R118: one output, then the histories Z1, Z0, Z3, Z2. -/
theorem bqDirect_keeps (x : F64) : KeepsRecord Bq.states (bqDirect x) := by
  intro w h
  simp only [bqDirect, calc_bind, calc_pure, regs_apply, rd_apply, fmul_apply, fadd_apply, fsub_apply]
  apply_rules only [Recorded.wr, Recorded.out, Recorded.tick, regZ0_storesOnly, regZ1_storesOnly, regZ2_storesOnly,
    regZ3_storesOnly]
  exact h

/-- R119: one output, then Z1 and Z0. -/
theorem bqCanon_keeps (x : F64) : KeepsRecord Bq.states (bqCanon x) := by
  intro w h
  simp only [bqCanon, calc_bind, calc_pure, regs_apply, rd_apply, fmul_apply, fadd_apply, fsub_apply]
  apply_rules only [Recorded.wr, Recorded.out, Recorded.tick, regZ0_storesOnly, regZ1_storesOnly]
  exact h

/-- R120: one output, then Z2, Z3, Z0 and Z1, with operations between the stores. -/
theorem bqTransDirect_keeps (x : F64) : KeepsRecord Bq.states (bqTransDirect x) := by
  intro w h
  simp only [bqTransDirect, calc_bind, calc_pure, regs_apply, rd_apply, fmul_apply, fadd_apply, fsub_apply]
  apply_rules only [Recorded.wr, Recorded.out, Recorded.tick, regZ0_storesOnly, regZ1_storesOnly, regZ2_storesOnly,
    regZ3_storesOnly]
  exact h

/-- R121: one output, then Z0 and Z1. -/
theorem bqTransCanon_keeps (x : F64) : KeepsRecord Bq.states (bqTransCanon x) := by
  intro w h
  simp only [bqTransCanon, calc_bind, calc_pure, regs_apply, rd_apply, fmul_apply, fadd_apply, fsub_apply]
  apply_rules only [Recorded.wr, Recorded.out, Recorded.tick, regZ0_storesOnly, regZ1_storesOnly]
  exact h

theorem ruleProcBq_keeps (x : F64) : KeepsRecord Bq.states (ruleProcBq x) := by
  intro w h
  simp only [ruleProcBq, calc_bind, regs_apply]
  cases w.regs.form with
  | direct => exact bqDirect_keeps x w h
  | canonical => exact bqCanon_keeps x w h
  | transposedDirect => exact bqTransDirect_keeps x w h
  | transposedCanonical => exact bqTransCanon_keeps x w h

end Biquad

section Filters

/-- The state-class register of ZLP and ZHP (R33, R38). -/
def Zdf.states (u : Zdf) : List F64 := [u.s]

/-- The state-class registers of LLP and LHP (R33, R39). -/
def Ladder.states (u : Ladder) : List F64 := [u.s1, u.s2, u.s3, u.s4]

/-- The state-class registers of SKH (R33, R40). -/
def Skh.states (u : Skh) : List F64 := [u.s1, u.s2]

theorem regS_storesOnly : StoresOnly Zdf.states regS := by simp +contextual [StoresOnly, Zdf.states, regS]
theorem regL1_storesOnly : StoresOnly Ladder.states regL1 := by simp +contextual [StoresOnly, Ladder.states, regL1]
theorem regL2_storesOnly : StoresOnly Ladder.states regL2 := by simp +contextual [StoresOnly, Ladder.states, regL2]
theorem regL3_storesOnly : StoresOnly Ladder.states regL3 := by simp +contextual [StoresOnly, Ladder.states, regL3]
theorem regL4_storesOnly : StoresOnly Ladder.states regL4 := by simp +contextual [StoresOnly, Ladder.states, regL4]
theorem regK1_storesOnly : StoresOnly Skh.states regK1 := by simp +contextual [StoresOnly, Skh.states, regK1]
theorem regK2_storesOnly : StoresOnly Skh.states regK2 := by simp +contextual [StoresOnly, Skh.states, regK2]

theorem deriveZdf_keeps (kind : StageKind) : KeepsRecord Zdf.states (deriveZdf kind) := by
  intro w h
  cases kind
  · exact ⟨h.nf_or_finite⟩
  · exact ⟨h.nf_or_finite⟩

theorem ruleResetZdf_keeps (kind : StageKind) (sr : F64) : KeepsRecord Zdf.states (ruleResetZdf kind sr) := by
  intro w _
  simp only [ruleResetZdf, calc_bind, calc_pure, plain_apply]
  exact deriveZdf_keeps kind _ (recorded_of_finite (by simp [Zdf.states]; decide))

theorem ruleSetpZdf_keeps (kind : StageKind) (fc : F64) : KeepsRecord Zdf.states (ruleSetpZdf kind fc) :=
  keepsRecord_setp (fun _ => rfl) (deriveZdf_keeps kind)

theorem ruleProcZdf_keeps (kind : StageKind) (x : F64) : KeepsRecord Zdf.states (ruleProcZdf kind x) := by
  intro w h
  simp only [ruleProcZdf, calc_bind, calc_pure, regs_apply]
  exact (h.stage regS_storesOnly kind _ x).out _

theorem deriveLad_keeps (kind : StageKind) : KeepsRecord Ladder.states (deriveLad kind) := by
  intro w h
  cases kind
  · exact ⟨h.nf_or_finite⟩
  · exact ⟨h.nf_or_finite⟩

theorem ruleResetLad_keeps (kind : StageKind) (sr : F64) : KeepsRecord Ladder.states (ruleResetLad kind sr) := by
  intro w _
  simp only [ruleResetLad, calc_bind, calc_pure, plain_apply]
  exact deriveLad_keeps kind _ (recorded_of_finite (by simp [Ladder.states]; decide))

theorem ruleSetpLad_keeps (kind : StageKind) (fc res : F64) :
    KeepsRecord Ladder.states (ruleSetpLad kind fc res) :=
  keepsRecord_setp (fun _ => rfl) (deriveLad_keeps kind)

theorem ladSigma_keeps (kind : StageKind) : KeepsRecord Ladder.states (ladSigma kind) := by
  intro w h
  cases kind
  · exact ⟨h.nf_or_finite⟩
  · exact ⟨h.nf_or_finite⟩

/-- R152, R153: the solved loop input runs through four stages, each with its own state register. -/
theorem ruleProcLad_keeps (kind : StageKind) (x : F64) : KeepsRecord Ladder.states (ruleProcLad kind x) := by
  intro w h
  simp only [ruleProcLad, calc_bind, calc_pure, regs_apply, fmul_apply, fadd_apply, fsub_apply, fdiv_apply]
  apply_rules only [Recorded.out, Recorded.stage, Recorded.tick, regL1_storesOnly, regL2_storesOnly,
    regL3_storesOnly, regL4_storesOnly]
  exact ladSigma_keeps kind w h

theorem deriveSkh_keeps : KeepsRecord Skh.states deriveSkh := fun _ h => ⟨h.nf_or_finite⟩

theorem ruleResetSkh_keeps (sr : F64) : KeepsRecord Skh.states (ruleResetSkh sr) := by
  intro w _
  simp only [ruleResetSkh, calc_bind, calc_pure, plain_apply]
  exact deriveSkh_keeps _ (recorded_of_finite (by simp [Skh.states]; decide))

theorem ruleSetpSkh_keeps (fc res : F64) : KeepsRecord Skh.states (ruleSetpSkh fc res) :=
  keepsRecord_setp (fun _ => rfl) deriveSkh_keeps

/-- R161: the saturated loop input runs through two high-pass stages. -/
theorem ruleProcSkh_keeps (x : F64) : KeepsRecord Skh.states (ruleProcSkh x) := by
  intro w h
  simp only [ruleProcSkh, calc_bind, calc_pure, regs_apply, fmul_apply, fsub_apply, fdiv_apply]
  apply_rules only [Recorded.out, Recorded.stage, Recorded.tick, regK1_storesOnly, regK2_storesOnly]
  exact h

end Filters

section Envelope

/-- The state-class registers of ENV (R33, R41). -/
def Env.states (u : Env) : List F64 := [u.cnt, u.seg, u.dlt, u.out]

theorem regCnt_storesOnly : StoresOnly Env.states regCnt := by simp +contextual [StoresOnly, Env.states, regCnt]
theorem regSeg_storesOnly : StoresOnly Env.states regSeg := by simp +contextual [StoresOnly, Env.states, regSeg]
theorem regDlt_storesOnly : StoresOnly Env.states regDlt := by simp +contextual [StoresOnly, Env.states, regDlt]
theorem regOut_storesOnly : StoresOnly Env.states regOut := by simp +contextual [StoresOnly, Env.states, regOut]

theorem ruleResetEnv_keeps (sr : F64) : KeepsRecord Env.states (ruleResetEnv sr) := fun _ _ =>
  recorded_of_finite (by simp [ruleResetEnv, Env.states]; decide)

theorem ruleSetpEnv_keeps (att dec sus rel : F64) : KeepsRecord Env.states (ruleSetpEnv att dec sus rel) :=
  fun _ h => ⟨h.nf_or_finite⟩

theorem ruleGateEnv_keeps (b : Bool) : KeepsRecord Env.states (ruleGateEnv b) := fun _ h => ⟨h.nf_or_finite⟩

/-- R175: the sample of a state stores nothing but the advanced counter. -/
theorem envOut_keeps (st : EnvState) : KeepsRecord Env.states (envOut st) := by
  intro w h
  cases st with
  | idle => exact h
  | sustain => exact h.tick
  | attack | decay | release => exact h.store regCnt_storesOnly _ _

theorem enterAttack_keeps (start : F64) : KeepsRecord Env.states (enterAttack start) := by
  intro w h
  simp only [enterAttack, calc_bind, regs_apply, fmul_apply, fdiv_apply]
  apply_rules only [Recorded.wr, Recorded.tick, regCnt_storesOnly, regSeg_storesOnly, regDlt_storesOnly]
  exact h.plain fun _ => rfl

theorem enterDecay_keeps : KeepsRecord Env.states enterDecay := by
  intro w h
  simp only [enterDecay, calc_bind, regs_apply, fmul_apply, fdiv_apply]
  apply_rules only [Recorded.wr, Recorded.tick, regCnt_storesOnly, regDlt_storesOnly]
  exact h.plain fun _ => rfl

theorem enterRelease_keeps (start : F64) : KeepsRecord Env.states (enterRelease start) := by
  intro w h
  simp only [enterRelease, calc_bind, regs_apply, fmul_apply, fdiv_apply]
  apply_rules only [Recorded.wr, Recorded.tick, regCnt_storesOnly, regSeg_storesOnly, regDlt_storesOnly]
  exact h.plain fun _ => rfl

/-- R177 to R182: a transition test either enters a state, which stores by `wr`, or changes ST at most. -/
theorem envNext_keeps (st : EnvState) (o : F64) : KeepsRecord Env.states (envNext st o) := by
  intro w h
  cases st with
  | idle =>
    rw [envNext_idle_apply]
    split
    · exact enterAttack_keeps _ w h
    · exact h
  | attack =>
    rw [envNext_attack_apply]
    dsimp only
    split
    · split
      · exact enterDecay_keeps _ h.tick
      · exact h.tick
    · exact enterRelease_keeps o w h
  | decay =>
    rw [envNext_decay_apply]
    dsimp only
    split
    · split
      · exact ⟨h.nf_or_finite⟩
      · exact ⟨h.nf_or_finite⟩
    · exact enterRelease_keeps o w h
  | sustain =>
    rw [envNext_sustain_apply]
    split
    · exact h
    · exact enterRelease_keeps o w h
  | release =>
    rw [envNext_release_apply]
    split
    · exact enterAttack_keeps o w h
    · split
      · exact ⟨h.nf_or_finite⟩
      · exact ⟨h.nf_or_finite⟩

theorem ruleRendEnv_keeps : KeepsRecord Env.states ruleRendEnv := by
  intro w h
  simp only [ruleRendEnv, calc_bind, calc_pure, regs_apply]
  exact envNext_keeps _ _ _ (((envOut_keeps _ w h).out _).wr regOut_storesOnly _)

end Envelope

section Oscillators

/-- The state-class registers of OSN (R33, R43). -/
def Osn.states (u : Osn) : List F64 := [u.ph, u.tph]

/-- The state-class registers of OSA (R33, R44). -/
def Osa.states (u : Osa) : List F64 := [u.ps, u.pt]

theorem regPh_storesOnly : StoresOnly Osn.states regPh := by simp +contextual [StoresOnly, Osn.states, regPh]
theorem regTph_storesOnly : StoresOnly Osn.states regTph := by simp +contextual [StoresOnly, Osn.states, regTph]
theorem regPs_storesOnly : StoresOnly Osa.states regPs := by simp +contextual [StoresOnly, Osa.states, regPs]
theorem regPt_storesOnly : StoresOnly Osa.states regPt := by simp +contextual [StoresOnly, Osa.states, regPt]

theorem wrapOnce_keeps (p : F64) : KeepsRecord Osn.states (wrapOnce p) := by
  intro w h
  rw [wrapOnce_apply]
  split
  · exact h.tick
  · exact h

theorem deriveInc_keeps : KeepsRecord Osn.states deriveInc := fun _ h => ⟨h.nf_or_finite⟩

theorem osnSetPhase_keeps : KeepsRecord Osn.states osnSetPhase := by
  intro w h
  simp only [osnSetPhase, calc_bind, regs_apply, fadd_apply]
  exact (wrapOnce_keeps _ _ (h.wr regPh_storesOnly _).tick).wr regTph_storesOnly _

theorem ruleResetOsn_keeps (sr : F64) : KeepsRecord Osn.states (ruleResetOsn sr) := by
  intro w h
  simp only [ruleResetOsn, calc_bind, calc_pure]
  refine osnSetPhase_keeps _ (.plain ?_ ?_)
  · exact deriveInc_keeps _ (h.plain fun _ => rfl)
  · exact fun _ => rfl

theorem ruleSetpOsn_keeps (freq pw phs : F64) : KeepsRecord Osn.states (ruleSetpOsn freq pw phs) :=
  keepsRecord_setp (fun _ => rfl) deriveInc_keeps

theorem ruleRetrigOsn_keeps : KeepsRecord Osn.states ruleRetrigOsn := osnSetPhase_keeps

theorem ruleRendOsn_keeps : KeepsRecord Osn.states ruleRendOsn := by
  intro w h
  simp only [ruleRendOsn, calc_bind, calc_pure, regs_apply, fadd_apply, fsub_apply, fmul_apply, uni2bi]
  apply_rules only [Recorded.out, Recorded.wr, wrapOnce_keeps, Recorded.tick, regPh_storesOnly, regTph_storesOnly]
  exact h

theorem deriveOsa_keeps : KeepsRecord Osa.states deriveOsa := by
  intro w h
  obtain ⟨-, -, hflags, -, -, -, -, hps, hpt, -, -⟩ := deriveOsa_frame w
  refine ⟨?_⟩
  rw [hflags, Osa.states, hps, hpt]
  exact h.nf_or_finite

theorem osaSetPhase_keeps : KeepsRecord Osa.states osaSetPhase := by
  intro w h
  cases hlt : F64.lt w.regs.phs w.regs.pw
  · simp only [osaSetPhase, calc_bind, regs_apply, fsub_apply, fmul_apply, fdiv_apply, hlt,
      Bool.false_eq_true, ↓reduceIte]
    refine .plain ?_ fun _ => rfl
    apply_rules only [Recorded.wr, Recorded.tick, regPs_storesOnly, regPt_storesOnly]
    exact h
  · simp only [osaSetPhase, calc_bind, regs_apply, fadd_apply, fsub_apply, fmul_apply, fdiv_apply, hlt, ↓reduceIte]
    refine .plain ?_ fun _ => rfl
    apply_rules only [Recorded.wr, Recorded.tick, regPs_storesOnly, regPt_storesOnly]
    exact h

theorem ruleResetOsa_keeps (sr : F64) : KeepsRecord Osa.states (ruleResetOsa sr) := by
  intro w h
  simp only [ruleResetOsa, calc_bind, calc_pure]
  exact osaSetPhase_keeps _ (deriveOsa_keeps _ (h.plain fun _ => rfl))

theorem ruleSetpOsa_keeps (freq pw phs : F64) : KeepsRecord Osa.states (ruleSetpOsa freq pw phs) := by
  intro w h
  cases hc : w.regs.init && (F64.ne freq w.regs.freq || F64.ne pw w.regs.pw)
  · simp only [ruleSetpOsa, calc_bind, regs_apply, plain_apply, hc, Bool.false_eq_true, ↓reduceIte]
    exact ⟨h.nf_or_finite⟩
  · simp only [ruleSetpOsa, calc_bind, regs_apply, plain_apply, hc, ↓reduceIte]
    exact deriveOsa_keeps _ ⟨h.nf_or_finite⟩

theorem ruleRetrigOsa_keeps : KeepsRecord Osa.states ruleRetrigOsa := osaSetPhase_keeps

/-- R207: in each region PS alone is stored. -/
theorem osaSawPulse_keeps : KeepsRecord Osa.states osaSawPulse := by
  intro w h
  rw [osaSawPulse_apply]
  dsimp only
  split
  · exact h.store regPs_storesOnly _ _
  split
  · exact h.store regPs_storesOnly _ _
  · exact h.store regPs_storesOnly _ _

/-- R208: on each side PT alone is stored; DIR is no state-class register. -/
theorem osaTri_keeps : KeepsRecord Osa.states osaTri := by
  intro w h
  rw [osaTri_apply]
  dsimp only
  have store (pt : F64) (dir : Dir) (n : Nat) : Recorded Osa.states { w with
      regs := { w.regs with pt := pt.flush, dir := dir }, draws := n, flags := w.flags ||| nfFlag pt.flush } :=
    ⟨(h.store regPt_storesOnly pt.flush n).nf_or_finite⟩
  split
  · split
    · exact store _ _ _
    · exact store _ _ _
  · split
    · exact store _ _ _
    · exact store _ _ _

theorem ruleRendOsa_keeps : KeepsRecord Osa.states ruleRendOsa := by
  intro w h
  simp only [ruleRendOsa, calc_bind, calc_pure, regs_apply, fsub_apply]
  exact ((((osaTri_keeps _ (osaSawPulse_keeps w h)).out _).tick.out _).tick).out _

end Oscillators

section Steps

variable {U : Type}

/-- `L` lists the state-class registers that a slot holds: they are among the state's, and putting a unit back changes
no other one. -/
structure SlotStates (k : Slot U) (L : U → List F64) : Prop where
  mem_of_get : ∀ s, ∀ v ∈ L (k.get s), v ∈ s.stateRegs
  mem_put : ∀ u s, ∀ v ∈ (k.put u s).stateRegs, v ∈ L u ∨ v ∈ s.stateRegs

theorem slotBq_states : SlotStates slotBq Bq.states := by
  constructor <;> simp +contextual [slotBq, Bq.states, State.stateRegs]

theorem slotZlp_states : SlotStates slotZlp Zdf.states := by
  constructor <;> simp +contextual [slotZlp, Zdf.states, State.stateRegs]

theorem slotZhp_states : SlotStates slotZhp Zdf.states := by
  constructor <;> simp +contextual [slotZhp, Zdf.states, State.stateRegs]

theorem slotLlp_states : SlotStates slotLlp Ladder.states := by
  constructor <;> simp +contextual [slotLlp, Ladder.states, State.stateRegs]

theorem slotLhp_states : SlotStates slotLhp Ladder.states := by
  constructor <;> simp +contextual [slotLhp, Ladder.states, State.stateRegs]

theorem slotSkh_states : SlotStates slotSkh Skh.states := by
  constructor <;> simp +contextual [slotSkh, Skh.states, State.stateRegs]

theorem slotEnv_states : SlotStates slotEnv Env.states := by
  constructor <;> simp +contextual [slotEnv, Env.states, State.stateRegs]

theorem slotOsn_states : SlotStates slotOsn Osn.states := by
  constructor <;> simp +contextual [slotOsn, Osn.states, State.stateRegs]

theorem slotOsa_states : SlotStates slotOsa Osa.states := by
  constructor <;> simp +contextual [slotOsa, Osa.states, State.stateRegs]

theorem finiteUntilNf_iff (s : State) :
    s.finiteUntilNf = true ↔ s.flt.getLsbD 3 = true ∨ ∀ v ∈ s.stateRegs, v.finite = true := by
  simp [State.finiteUntilNf]

/-- Running a rule that keeps the record of its unit keeps the invariant of the state (R239). -/
theorem run_finiteUntilNf {k : Slot U} {L : U → List F64} {c : Calc U (List Word64)} {s : State}
    (hk : SlotStates k L) (hc : KeepsRecord L c) (h : s.finiteUntilNf = true) : (s.run k c).finiteUntilNf = true := by
  have hflt : (s.run k c).flt = s.flt ||| (c ⟨k.unit, k.get s, s.draws.get k.unit, 0⟩).2.flags := rfl
  rw [finiteUntilNf_iff] at h ⊢
  rcases h with hnf | hfin
  · exact .inl (by simp [hflt, hnf])
  rcases hc ⟨k.unit, k.get s, s.draws.get k.unit, 0⟩ (recorded_of_finite fun v hv => hfin v (hk.mem_of_get s v hv))
    with ⟨hnf | hnew⟩
  · exact .inl (by rw [hflt, BitVec.getLsbD_or, hnf, Bool.or_true])
  · refine .inr fun v hv => ?_
    rcases hk.mem_put _ _ v hv with hu | hs
    · exact hnew v hu
    · exact hfin v hs

theorem respond_finiteUntilNf {s : State} (data : List Word64) (h : s.finiteUntilNf = true) :
    (s.respond data).finiteUntilNf = true := h

theorem refuse_finiteUntilNf {s : State} (code : Status) (h : s.finiteUntilNf = true) :
    (s.refuse code).finiteUntilNf = true := by
  rw [finiteUntilNf_iff] at h ⊢
  rcases h with hnf | hfin
  · exact .inl (by simp [hnf])
  · exact .inr hfin

theorem readBack_finiteUntilNf {s : State} (words : List Word64) (idx : BitVec 8) (h : s.finiteUntilNf = true) :
    (s.readBack words idx).finiteUntilNf = true := by
  rcases readBack_cases words idx s with ⟨w, -, hs⟩ | ⟨-, hs⟩
  · rw [hs]; exact respond_finiteUntilNf _ h
  · rw [hs]; exact refuse_finiteUntilNf _ h

theorem runInit_finiteUntilNf {k : Slot U} {L : U → List F64} {c : Calc U (List Word64)} {s : State} {init : Bool}
    (hk : SlotStates k L) (hc : KeepsRecord L c) (h : s.finiteUntilNf = true) :
    (s.runInit k init c).finiteUntilNf = true := by
  rcases runInit_cases k init c s with ⟨-, hs⟩ | ⟨-, hs⟩
  · rw [hs]; exact run_finiteUntilNf hk hc h
  · rw [hs]; exact refuse_finiteUntilNf _ h

/-- `PROC.BQ` has a check of its own besides INIT (R117). -/
theorem execProcBq_finiteUntilNf {s t : State} {x : F64} (h : s.finiteUntilNf = true)
    (ht : execProcBq x s = .next t) : t.finiteUntilNf = true := by
  unfold execProcBq at ht
  split at ht
  · cases ht; exact refuse_finiteUntilNf _ h
  split at ht
  · cases ht; exact refuse_finiteUntilNf _ h
  · cases ht; exact run_finiteUntilNf slotBq_states (ruleProcBq_keeps x) h

/-- Every instruction keeps the invariant (R13, R239). -/
theorem exec_finiteUntilNf {i : Instr} {s t : State} (h : s.finiteUntilNf = true) (ht : exec i s = .next t) :
    t.finiteUntilNf = true := by
  cases i with
  | procBq x => exact execProcBq_finiteUntilNf h ht
  | getpBq | getpZlp | getpZhp | getpLlp | getpLhp | getpSkh | getpEnv | getpOsn | getpOsa | rdflt =>
    cases ht; exact respond_finiteUntilNf _ h
  | getsBq idx | getsZlp idx | getsZhp idx | getsLlp idx | getsLhp idx | getsSkh idx | getsEnv idx | getsOsn idx
  | getsOsa idx => cases ht; exact readBack_finiteUntilNf _ idx h
  | resetBq sr => cases ht; exact run_finiteUntilNf slotBq_states (ruleResetBq_keeps sr) h
  | resetZlp sr => cases ht; exact run_finiteUntilNf slotZlp_states (ruleResetZdf_keeps .lp sr) h
  | resetZhp sr => cases ht; exact run_finiteUntilNf slotZhp_states (ruleResetZdf_keeps .hp sr) h
  | resetLlp sr => cases ht; exact run_finiteUntilNf slotLlp_states (ruleResetLad_keeps .lp sr) h
  | resetLhp sr => cases ht; exact run_finiteUntilNf slotLhp_states (ruleResetLad_keeps .hp sr) h
  | resetSkh sr => cases ht; exact run_finiteUntilNf slotSkh_states (ruleResetSkh_keeps sr) h
  | resetEnv sr => cases ht; exact run_finiteUntilNf slotEnv_states (ruleResetEnv_keeps sr) h
  | resetOsn sr => cases ht; exact run_finiteUntilNf slotOsn_states (ruleResetOsn_keeps sr) h
  | resetOsa sr => cases ht; exact run_finiteUntilNf slotOsa_states (ruleResetOsa_keeps sr) h
  | clrBq => cases ht; exact run_finiteUntilNf slotBq_states ruleClrBq_keeps h
  | setpBq fc => cases ht; exact run_finiteUntilNf slotBq_states (ruleSetpBq_keeps fc) h
  | setpZlp fc => cases ht; exact run_finiteUntilNf slotZlp_states (ruleSetpZdf_keeps .lp fc) h
  | setpZhp fc => cases ht; exact run_finiteUntilNf slotZhp_states (ruleSetpZdf_keeps .hp fc) h
  | setpLlp fc res => cases ht; exact run_finiteUntilNf slotLlp_states (ruleSetpLad_keeps .lp fc res) h
  | setpLhp fc res => cases ht; exact run_finiteUntilNf slotLhp_states (ruleSetpLad_keeps .hp fc res) h
  | setpSkh fc res => cases ht; exact run_finiteUntilNf slotSkh_states (ruleSetpSkh_keeps fc res) h
  | setpEnv att dec sus rel => cases ht; exact run_finiteUntilNf slotEnv_states (ruleSetpEnv_keeps att dec sus rel) h
  | setpOsn freq pw phs => cases ht; exact run_finiteUntilNf slotOsn_states (ruleSetpOsn_keeps freq pw phs) h
  | setpOsa freq pw phs => cases ht; exact run_finiteUntilNf slotOsa_states (ruleSetpOsa_keeps freq pw phs) h
  | procZlp x => cases ht; exact runInit_finiteUntilNf slotZlp_states (ruleProcZdf_keeps .lp x) h
  | procZhp x => cases ht; exact runInit_finiteUntilNf slotZhp_states (ruleProcZdf_keeps .hp x) h
  | procLlp x => cases ht; exact runInit_finiteUntilNf slotLlp_states (ruleProcLad_keeps .lp x) h
  | procLhp x => cases ht; exact runInit_finiteUntilNf slotLhp_states (ruleProcLad_keeps .hp x) h
  | procSkh x => cases ht; exact runInit_finiteUntilNf slotSkh_states (ruleProcSkh_keeps x) h
  | rendEnv => cases ht; exact runInit_finiteUntilNf slotEnv_states ruleRendEnv_keeps h
  | rendOsn => cases ht; exact runInit_finiteUntilNf slotOsn_states ruleRendOsn_keeps h
  | rendOsa => cases ht; exact runInit_finiteUntilNf slotOsa_states ruleRendOsa_keeps h
  | gateEnv b => cases ht; exact run_finiteUntilNf slotEnv_states (ruleGateEnv_keeps b) h
  | retrigOsn => cases ht; exact runInit_finiteUntilNf slotOsn_states ruleRetrigOsn_keeps h
  | retrigOsa => cases ht; exact runInit_finiteUntilNf slotOsa_states ruleRetrigOsa_keeps h
  | setformBq f => cases ht; exact run_finiteUntilNf slotBq_states (ruleSetformBq_keeps f) h
  | ldcoefBq a0 a1 a2 b1 b2 =>
    cases ht; exact run_finiteUntilNf slotBq_states (ruleLdcoefBq_keeps a0 a1 a2 b1 b2) h

/-- Taking a command from the port changes no register. -/
theorem accept_finiteUntilNf {s t : State} {f : Frame} (ha : s.accept = some (f, t)) (h : s.finiteUntilNf = true) :
    t.finiteUntilNf = true := by
  rw [(accept_some ha).2]
  exact h

end Steps

/-- Settles O43: by cases on what a step can do, and on the instruction it executes. -/
theorem nonFiniteStateIsRecorded : Obligations.NonFiniteStateIsRecorded := by
  intro s t h hstep
  rcases step_cases hstep with ⟨-, rfl⟩ | ⟨f, u, i, ha, -, hexec⟩ | ⟨f, u, r, ha, -, -, rfl⟩
  · exact h
  · exact exec_finiteUntilNf (accept_finiteUntilNf ha h) hexec
  · exact refuse_finiteUntilNf _ (accept_finiteUntilNf ha h)

end Sys2Proof.Machine
end

section
/-! PROOFS. O10, O51, O55 and O56: the constants, the flush, the results that involve no rounding, and the comparisons. -/

namespace Sys2Proof

section Classes

variable {a : F64}

/-- An infinity is neither a NaN nor a zero nor finite. -/
theorem isInf_class (h : a.isInf = true) : a.isNaN = false ∧ a.isZero = false ∧ a.finite = false := by
  have hm := magBits_eq a
  simp only [F64.isInf, Bool.and_eq_true, beq_iff_eq] at h
  obtain ⟨he, hf⟩ := h
  simp [F64.isNaN, F64.isZero, F64.finite, hm, he, hf]

/-- A zero is finite. -/
theorem finite_of_isZero (h : a.isZero = true) : a.finite = true := by
  have hm := magBits_eq a
  simp only [F64.isZero, beq_iff_eq] at h
  have he : a.expField = 0 := by omega
  simp [F64.finite, he]

@[simp] theorem neg_sign (a : F64) : a.neg.sign = !a.sign := (neg_toNat a).1

@[simp] theorem neg_magBits (a : F64) : a.neg.magBits = a.magBits := (neg_toNat a).2

@[simp] theorem neg_expField (a : F64) : a.neg.expField = a.expField := (fields_of_magBits (neg_magBits a)).1

@[simp] theorem neg_fracField (a : F64) : a.neg.fracField = a.fracField := (fields_of_magBits (neg_magBits a)).2

@[simp] theorem neg_isNaN (a : F64) : a.neg.isNaN = a.isNaN := by simp [F64.isNaN]

@[simp] theorem neg_isInf (a : F64) : a.neg.isInf = a.isInf := by simp [F64.isInf]

@[simp] theorem neg_finite (a : F64) : a.neg.finite = a.finite := by simp [F64.finite]

end Classes

section Specials

variable (nan : F64) {a b : F64}

theorem add_of_isNaN (h : a.isNaN = true ∨ b.isNaN = true) : F64.add nan a b = nan := by
  rcases h with h | h <;> simp [F64.add, h]

theorem mul_of_isNaN (h : a.isNaN = true ∨ b.isNaN = true) : F64.mul nan a b = nan := by
  rcases h with h | h <;> simp [F64.mul, h]

theorem div_of_isNaN (h : a.isNaN = true ∨ b.isNaN = true) : F64.div nan a b = nan := by
  rcases h with h | h <;> simp [F64.div, h]

/-- An infinity absorbs a finite operand on its right. -/
theorem add_inf_finite (ha : a.isInf = true) (hb : b.finite = true) : F64.add nan a b = a := by
  simp [F64.add, isInf_class ha, finite_not_special hb, ha]

/-- An infinity absorbs a finite operand on its left. -/
theorem add_finite_inf (ha : a.finite = true) (hb : b.isInf = true) : F64.add nan a b = b := by
  simp [F64.add, isInf_class hb, finite_not_special ha, hb]

/-- Two infinities add up unless their signs differ. -/
theorem add_inf_inf (ha : a.isInf = true) (hb : b.isInf = true) :
    F64.add nan a b = if a.sign = b.sign then a else nan := by
  simp only [F64.add, isInf_class ha, isInf_class hb, ha, hb]
  by_cases hs : a.sign = b.sign <;> simp [hs]

theorem mul_inf (h : a.isInf = true ∨ b.isInf = true) (ha : a.isNaN = false) (hb : b.isNaN = false) :
    F64.mul nan a b = if a.isZero || b.isZero then nan else F64.inf (a.sign != b.sign) := by
  have hi : (a.isInf || b.isInf) = true := by simpa using h
  simp only [F64.mul, ha, hb, hi]
  rfl

theorem div_inf_finite (ha : a.isInf = true) (hb : b.finite = true) :
    F64.div nan a b = F64.inf (a.sign != b.sign) := by
  simp [F64.div, isInf_class ha, finite_not_special hb, ha]

theorem div_finite_inf (ha : a.finite = true) (hb : b.isInf = true) :
    F64.div nan a b = F64.zero (a.sign != b.sign) := by
  simp [F64.div, isInf_class hb, finite_not_special ha, hb]

theorem div_inf_inf (ha : a.isInf = true) (hb : b.isInf = true) : F64.div nan a b = nan := by
  simp [F64.div, isInf_class ha, isInf_class hb, ha, hb]

/-- Division of a finite value by a zero. -/
theorem div_by_zero (ha : a.finite = true) (hb : b.isZero = true) :
    F64.div nan a b = if a.isZero then nan else F64.inf (a.sign != b.sign) := by
  simp [F64.div, finite_not_special ha, finite_not_special (finite_of_isZero hb), hb]

theorem sqrt_of_isNaN (h : a.isNaN = true) : F64.sqrt nan a = nan := by simp [F64.sqrt, h]

theorem sqrt_of_isZero (h : a.isZero = true) : F64.sqrt nan a = a := by
  simp [F64.sqrt, finite_not_special (finite_of_isZero h), h]

theorem sqrt_of_negative (hn : a.isNaN = false) (hz : a.isZero = false) (hs : a.sign = true) :
    F64.sqrt nan a = nan := by
  simp [F64.sqrt, hn, hz, hs]

theorem sqrt_of_posInf (hi : a.isInf = true) (hs : a.sign = false) : F64.sqrt nan a = a := by
  simp [F64.sqrt, isInf_class hi, hs, hi]

end Specials

/-- Settles O55: each clause is the lemma of its operation and operand classes. -/
theorem nanAndInfinityResults : Obligations.NanAndInfinityResults := by
  intro nan a b
  refine ⟨fun h => ⟨add_of_isNaN nan h, add_of_isNaN nan (by simpa using h), mul_of_isNaN nan h, div_of_isNaN nan h⟩,
    sqrt_of_isNaN nan, fun ha hb => ⟨add_inf_finite nan ha hb, add_finite_inf nan hb ha,
      add_inf_finite nan ha (by simpa using hb), add_finite_inf nan hb (by simpa using ha), div_inf_finite nan ha hb,
      ?_⟩,
    ?_, ?_, fun ha hb => ⟨div_inf_inf nan ha hb, ?_⟩, ?_, ?_, ?_, ?_, sqrt_of_isZero nan, sqrt_of_negative nan,
    sqrt_of_posInf nan, neg_sign a, neg_magBits a, abs_fields a⟩
  · rw [div_finite_inf nan hb ha, bne_comm]
  · intro ha hb hz
    have hn := (finite_not_special hb).1
    have hna := (isInf_class ha).1
    rw [mul_inf nan (.inl ha) hna hn, mul_inf nan (.inr ha) hn hna]
    simp [isInf_class ha, hz, bne_comm]
  · intro ha hz
    have hn := (finite_not_special (finite_of_isZero hz)).1
    have hna := (isInf_class ha).1
    rw [mul_inf nan (.inl ha) hna hn, mul_inf nan (.inr ha) hn hna]
    simp [hz]
  · rw [mul_inf nan (.inl ha) (isInf_class ha).1 (isInf_class hb).1]
    simp [isInf_class ha, isInf_class hb]
  · intro ha hb hs
    exact ⟨by rw [add_inf_inf nan ha hb, if_pos hs],
      by rw [F64.sub, add_inf_inf nan ha (by simpa using hb)]; simp [hs]⟩
  · intro ha hb hs
    refine ⟨by rw [add_inf_inf nan ha hb, if_neg hs], ?_⟩
    rw [F64.sub, add_inf_inf nan ha (by simpa using hb), neg_sign, if_pos (Bool.eq_not.2 hs)]
  · intro ha hz hb
    rw [div_by_zero nan ha hb, hz]
    rfl
  · intro ha hb
    rw [div_by_zero nan (finite_of_isZero ha) hb, if_pos ha]

/-- Settles O51, by the flush in the words of R12. -/
theorem flushSnapsSubnormalsToZero : Obligations.FlushSnapsSubnormalsToZero := by
  intro v
  rw [flush_eq]
  constructor
  · intro he hf
    have hs : v.isSubnormal = true := by simp [F64.isSubnormal, he, hf]
    rw [if_pos hs]
    rfl
  · intro h
    have hs : v.isSubnormal = false := by
      rcases h with he | hf
      · simp [F64.isSubnormal, he]
      · simp [F64.isSubnormal, hf]
    rw [hs]
    rfl

/-- Settles O10: each constant's decimal is rounded by evaluation. -/
theorem constantsAreTheNearestValues : Obligations.ConstantsAreTheNearestValues := by
  refine ⟨?_, ?_, ?_, ?_, ?_, ?_, ?_, ?_, rfl, rfl, rfl, rfl, rfl, rfl, rfl, rfl⟩ <;> decide +kernel

section Comparisons

variable {a b : F64}

/-- Of two patterns below the sign, the smaller one is the smaller magnitude. -/
theorem mag_lt_of_magBits_lt (h : a.magBits < b.magBits) : a.mag < b.mag := by
  have hma := magBits_eq a
  have hmb := magBits_eq b
  have hfa := fracField_lt a
  have hfb := fracField_lt b
  unfold F64.mag
  split
  · next ha =>
    split
    · omega
    · have hp : 1 ≤ 2 ^ (b.expField - 1) := Nat.one_le_two_pow
      calc a.fracField < 2 ^ 52 + b.fracField := by omega
        _ ≤ (2 ^ 52 + b.fracField) * 2 ^ (b.expField - 1) := Nat.le_mul_of_pos_right _ hp
  · next ha =>
    rw [if_neg (by omega)]
    rcases (show a.expField = b.expField ∨ a.expField < b.expField by omega) with he | he
    · rw [he]
      exact Nat.mul_lt_mul_of_pos_right (by omega) (Nat.two_pow_pos _)
    · calc (2 ^ 52 + a.fracField) * 2 ^ (a.expField - 1)
          < 2 ^ 53 * 2 ^ (a.expField - 1) := Nat.mul_lt_mul_of_pos_right (by omega) (Nat.two_pow_pos _)
        _ = 2 ^ 52 * 2 ^ (a.expField - 1 + 1) := by rw [Nat.pow_succ]; omega
        _ ≤ 2 ^ 52 * 2 ^ (b.expField - 1) := Nat.mul_le_mul_left _ (Nat.pow_le_pow_right (by omega) (by omega))
        _ ≤ (2 ^ 52 + b.fracField) * 2 ^ (b.expField - 1) := Nat.mul_le_mul_right _ (by omega)

/-- The pattern below the sign determines the magnitude. -/
theorem mag_eq_of_magBits_eq (h : a.magBits = b.magBits) : a.mag = b.mag := by
  obtain ⟨he, hf⟩ := fields_of_magBits h
  unfold F64.mag
  rw [he, hf]

/-- The rank orders as the exact value does (R10). -/
theorem rank_lt_iff : a.rank < b.rank ↔ a.val < b.val := by
  have hlt := @mag_lt_of_magBits_lt a b
  have hgt := @mag_lt_of_magBits_lt b a
  have heq := @mag_eq_of_magBits_eq a b
  have hza := mag_eq_zero a
  have hzb := mag_eq_zero b
  unfold F64.rank F64.val
  cases a.sign <;> cases b.sign <;> simp only [Bool.false_eq_true, ↓reduceIte] <;> omega

theorem rank_eq_iff : a.rank = b.rank ↔ a.val = b.val := by
  have hab := @rank_lt_iff a b
  have hba := @rank_lt_iff b a
  omega

theorem rank_le_iff : a.rank ≤ b.rank ↔ a.val ≤ b.val := by
  have hba := @rank_lt_iff b a
  omega

theorem lt_iff_rank (ha : a.isNaN = false) (hb : b.isNaN = false) : F64.lt a b = true ↔ a.rank < b.rank := by
  simp [F64.lt, ha, hb]

theorem le_iff_rank (ha : a.isNaN = false) (hb : b.isNaN = false) : F64.le a b = true ↔ a.rank ≤ b.rank := by
  simp [F64.le, ha, hb]

theorem eq_iff_rank (ha : a.isNaN = false) (hb : b.isNaN = false) : F64.eq a b = true ↔ a.rank = b.rank := by
  simp [F64.eq, ha, hb]

/-- The rank of an infinity is at an end of the ranks. -/
theorem rank_of_isInf (h : a.isInf = true) : a.rank = if a.sign then -(2047 * 2 ^ 52) else 2047 * 2 ^ 52 := by
  have hm := magBits_eq a
  simp only [F64.isInf, Bool.and_eq_true, beq_iff_eq] at h
  obtain ⟨he, hf⟩ := h
  rw [F64.rank, hm, he, hf]
  rfl

/-- The ranks of finite values lie strictly between those of the infinities. -/
theorem rank_of_finite (h : a.finite = true) : -(2047 * 2 ^ 52) < a.rank ∧ a.rank < 2047 * 2 ^ 52 := by
  have hm := magBits_eq a
  have hf := fracField_lt a
  have he := expField_lt a
  simp only [F64.finite, bne_iff_ne, ne_eq] at h
  unfold F64.rank
  split <;> omega

end Comparisons

/-- Settles O56: a comparison is one of ranks, and the ranks order as the values do, infinities at the ends. -/
theorem comparisonsFollowTheValues : Obligations.ComparisonsFollowTheValues := by
  intro a b
  refine ⟨fun h => ?_, fun ha hb => ?_, fun ha hb => ?_, fun ha hb => ?_⟩
  · rcases h with h | h <;> simp [F64.lt, F64.le, F64.gt, F64.ge, F64.eq, F64.ne, h]
  · have hna := (finite_not_special ha).1
    have hnb := (finite_not_special hb).1
    have heq := (eq_iff_rank hna hnb).trans rank_eq_iff
    exact ⟨(lt_iff_rank hna hnb).trans rank_lt_iff, (le_iff_rank hna hnb).trans rank_le_iff,
      (lt_iff_rank hnb hna).trans rank_lt_iff, (le_iff_rank hnb hna).trans rank_le_iff, heq,
      by rw [F64.ne, Bool.not_eq_true', ← Bool.not_eq_true, heq]⟩
  · have hna := (isInf_class ha).1
    have hnb := (finite_not_special hb).1
    have hra := rank_of_isInf ha
    obtain ⟨hlo, hhi⟩ := rank_of_finite hb
    cases hs : a.sign
    · simp only [hs, Bool.false_eq_true, ↓reduceIte] at hra
      simp [F64.lt, F64.gt, F64.eq, hna, hnb]
      omega
    · simp only [hs, ↓reduceIte] at hra
      simp [F64.lt, F64.gt, F64.eq, hna, hnb]
      omega
  · have hra := rank_of_isInf ha
    have hrb := rank_of_isInf hb
    simp only [F64.lt, F64.eq, (isInf_class ha).1, (isInf_class hb).1, hra, hrb]
    cases a.sign <;> cases b.sign <;> decide

end Sys2Proof
end

section
/-! PROOFS. O52, O53 and O54: correct rounding. `RoundsTo q e n` says that `n · 2^e` is within half a unit of the last
place of the real magnitude `q`, ties even. `F64.round` meets it, and it gives `NearestEven`. All magnitudes are counted in
units of 2^-1074. -/

namespace Sys2Proof

open Machine

section Specification

/-- `n` units of 2^e are `q` rounded once: `e` is the exponent of the last place of `q` (0 for small `q`), the error is at
most half a unit, and exactly half a unit only for an even `n` (R8). -/
structure RoundsTo (q : ℝ) (e n : ℕ) : Prop where
  nonneg : 0 ≤ q
  lower : e = 0 ∨ 2 ^ 52 * 2 ^ e ≤ q
  upper : q < 2 ^ 53 * 2 ^ e
  error : 2 * |n * 2 ^ e - q| ≤ 2 ^ e
  tie : 2 * |n * 2 ^ e - q| = 2 ^ e → n % 2 = 0

variable {q : ℝ} {e n : ℕ}

/-- Half a unit below and above, without the absolute value. -/
theorem RoundsTo.error_bounds (h : RoundsTo q e n) :
    2 * q ≤ (2 * n + 1) * 2 ^ e ∧ (2 * n - 1) * 2 ^ e ≤ 2 * q := by
  have habs := abs_le.1 (show |(n : ℝ) * 2 ^ e - q| ≤ 2 ^ e / 2 by linarith [h.error])
  constructor <;> linarith [habs.1, habs.2]

/-- The significand has 53 bits, or the value is subnormal; rounding may carry to 2^53. -/
theorem RoundsTo.significand_le (h : RoundsTo q e n) : n ≤ 2 ^ 53 := by
  have hP : (0 : ℝ) < 2 ^ e := by positivity
  have hlt : (2 * n - 1 : ℝ) < 2 * 2 ^ 53 := by
    refine lt_of_mul_lt_mul_right ?_ hP.le
    linarith [h.error_bounds.2, h.upper]
  have hnat : 2 * n < 2 * 2 ^ 53 + 1 := by
    have : ((2 * n : ℕ) : ℝ) < ((2 * 2 ^ 53 + 1 : ℕ) : ℝ) := by push_cast; linarith
    exact_mod_cast this
  omega

theorem RoundsTo.le_significand (h : RoundsTo q e n) : e = 0 ∨ 2 ^ 52 ≤ n := by
  rcases h.lower with he | hlow
  · exact .inl he
  have hP : (0 : ℝ) < 2 ^ e := by positivity
  have hle : (2 * 2 ^ 52 : ℝ) ≤ 2 * n + 1 := by
    refine le_of_mul_le_mul_right ?_ hP
    linarith [h.error_bounds.1]
  have hnat : 2 * 2 ^ 52 ≤ 2 * n + 1 := by exact_mod_cast hle
  exact .inr (by omega)

/-- No multiple of the last place is nearer, and one at the same distance leaves `n` even. -/
theorem RoundsTo.nearest_multiple (h : RoundsTo q e n) (k : ℕ) :
    |n * 2 ^ e - q| ≤ |k * 2 ^ e - q| ∧ (k ≠ n → |k * 2 ^ e - q| = |n * 2 ^ e - q| → n % 2 = 0) := by
  by_cases hk : k = n
  · subst hk
    exact ⟨le_rfl, fun hne => absurd rfl hne⟩
  have hP : (0 : ℝ) < 2 ^ e := by positivity
  have hgap : (1 : ℝ) ≤ |(k : ℝ) - n| := by
    have : (1 : ℤ) ≤ |(k : ℤ) - n| := Int.one_le_abs (by omega)
    exact_mod_cast this
  have hfar : (2 : ℝ) ^ e ≤ |k * 2 ^ e - q| + |n * 2 ^ e - q| := by
    calc (2 : ℝ) ^ e ≤ |(k : ℝ) - n| * 2 ^ e := le_mul_of_one_le_left hP.le hgap
      _ = |(k * 2 ^ e - q) - (n * 2 ^ e - q)| := by
          rw [← abs_of_pos hP, ← abs_mul, abs_of_pos hP]; congr 1; ring
      _ ≤ |k * 2 ^ e - q| + |n * 2 ^ e - q| := abs_sub _ _
  have herr := h.error
  exact ⟨by linarith, fun _ heq => h.tie (by linarith)⟩

/-- A magnitude of an F64 is a multiple of 2^e or below 2^52 such units. -/
theorem mag_multiple_or_lt (c : F64) (e : ℕ) : (∃ k, c.mag = k * 2 ^ e) ∨ c.mag < 2 ^ 52 * 2 ^ e := by
  have hf := fracField_lt c
  have hP : 1 ≤ 2 ^ e := Nat.one_le_two_pow
  unfold F64.mag
  split
  · exact .inr (by nlinarith)
  rcases Nat.lt_or_ge (c.expField - 1) e with he | he
  · refine .inr ?_
    calc (2 ^ 52 + c.fracField) * 2 ^ (c.expField - 1)
        < 2 ^ 53 * 2 ^ (c.expField - 1) := Nat.mul_lt_mul_of_pos_right (by omega) (Nat.two_pow_pos _)
      _ = 2 ^ 52 * 2 ^ (c.expField - 1 + 1) := by rw [Nat.pow_succ]; omega
      _ ≤ 2 ^ 52 * 2 ^ e := Nat.mul_le_mul_left _ (Nat.pow_le_pow_right (by omega) he)
  · refine .inl ⟨(2 ^ 52 + c.fracField) * 2 ^ (c.expField - 1 - e), ?_⟩
    rw [Nat.mul_assoc, ← Nat.pow_add, Nat.sub_add_cancel he]

/-- No F64 magnitude is nearer, and one at the same distance leaves `n` even: the gaps below the binade of `q` are
smaller than a unit, but the binade's lower end is nearer than anything below it. -/
theorem RoundsTo.nearest_mag (h : RoundsTo q e n) (c : F64) :
    |n * 2 ^ e - q| ≤ |c.mag - q| ∧ ((c.mag : ℝ) ≠ n * 2 ^ e → |c.mag - q| = |n * 2 ^ e - q| → n % 2 = 0) := by
  have of_multiple (k : ℕ) (hk : c.mag = k * 2 ^ e) : |n * 2 ^ e - q| ≤ |c.mag - q| ∧
      ((c.mag : ℝ) ≠ n * 2 ^ e → |c.mag - q| = |n * 2 ^ e - q| → n % 2 = 0) := by
    have hnear := h.nearest_multiple k
    have hcast : (c.mag : ℝ) = k * 2 ^ e := by rw [hk]; push_cast; rfl
    rw [hcast]
    exact ⟨hnear.1, fun hne => hnear.2 fun hkn => hne (by rw [hkn])⟩
  rcases mag_multiple_or_lt c e with ⟨k, hk⟩ | hlt
  · exact of_multiple k hk
  rcases h.lower with he | hlow
  · exact of_multiple c.mag (by rw [he]; omega)
  have hend := (h.nearest_multiple (2 ^ 52)).1
  have hlt' : (c.mag : ℝ) < 2 ^ 52 * 2 ^ e := by exact_mod_cast hlt
  rw [Nat.cast_pow, Nat.cast_ofNat] at hend
  rw [abs_of_nonpos (by linarith : (2 : ℝ) ^ 52 * 2 ^ e - q ≤ 0)] at hend
  rw [abs_of_nonpos (by linarith : (c.mag : ℝ) - q ≤ 0)]
  exact ⟨by linarith, fun _ heq => absurd heq (by linarith)⟩

/-- The pattern `e · 2^52 + n` is the one of `n · 2^e`, also where `n` has carried to 2^53. -/
theorem pack_mag {neg : Bool} (hlow : e = 0 ∨ 2 ^ 52 ≤ n) (hn : n ≤ 2 ^ 53) (hfin : e * 2 ^ 52 + n < 2047 * 2 ^ 52) :
    (F64.pack neg (e * 2 ^ 52 + n)).mag = n * 2 ^ e := by
  have h63 : e * 2 ^ 52 + n < 2 ^ 63 := by omega
  unfold F64.mag
  rw [pack_expField h63, pack_fracField h63]
  rcases (show n < 2 ^ 52 ∨ (2 ^ 52 ≤ n ∧ n < 2 ^ 53) ∨ n = 2 ^ 53 by omega) with hsub | ⟨hge, hlt⟩ | hcarry
  · have he : e = 0 := by omega
    subst he
    rw [if_pos (by omega)]
    omega
  · have hexp : (e * 2 ^ 52 + n) / 2 ^ 52 = e + 1 := by omega
    have hfrac : 2 ^ 52 + (e * 2 ^ 52 + n) % 2 ^ 52 = n := by omega
    rw [hexp, hfrac, if_neg (by omega), Nat.add_sub_cancel]
  · have hexp : (e * 2 ^ 52 + n) / 2 ^ 52 = e + 2 := by omega
    have hfrac : (e * 2 ^ 52 + n) % 2 ^ 52 = 0 := by omega
    rw [hexp, hfrac, if_neg (by omega), hcarry, show e + 2 - 1 = e + 1 from rfl, Nat.pow_succ 2 e]
    omega

/-- The pattern overflows from the midpoint between the largest F64 and 2^1024 on. -/
theorem RoundsTo.overflow_iff (h : RoundsTo q e n) :
    2047 * 2 ^ 52 ≤ e * 2 ^ 52 + n ↔ (2 ^ 54 - 1) * 2 ^ 2044 ≤ q := by
  have hn := h.significand_le
  have hlow := h.le_significand
  have hP : (0 : ℝ) < 2 ^ 2044 := by positivity
  rcases lt_trichotomy e 2045 with he | he | he
  · have hmono : (2 : ℝ) ^ e ≤ 2 ^ 2044 := pow_le_pow_right₀ one_le_two (by omega)
    have hup := h.upper
    refine iff_of_false (by omega) (not_le.2 ?_)
    generalize (2 : ℝ) ^ 2044 = P at *
    linarith
  · subst he
    have hbounds := h.error_bounds
    have htie := h.tie
    rw [show (2 : ℝ) ^ 2045 = 2 * 2 ^ 2044 from pow_succ' 2 2044] at hbounds htie
    generalize (2 : ℝ) ^ 2044 = P at *
    constructor
    · intro hover
      have hn' : n = 2 ^ 53 := by omega
      rw [hn', Nat.cast_pow, Nat.cast_ofNat] at hbounds
      linarith [hbounds.2]
    · intro hq
      by_contra hover
      have hle : (2 ^ 53 - 1 : ℝ) ≤ n := by
        refine le_of_mul_le_mul_right ?_ hP
        linarith [hbounds.1]
      have hge : 2 ^ 53 - 1 ≤ n := by
        have hcast : ((2 ^ 53 - 1 : ℕ) : ℝ) ≤ n := by
          rw [show ((2 ^ 53 - 1 : ℕ) : ℝ) = 2 ^ 53 - 1 by norm_num]
          exact hle
        exact_mod_cast hcast
      have hn' : n = 2 ^ 53 - 1 := by omega
      have hcast : (n : ℝ) = 2 ^ 53 - 1 := by rw [hn']; norm_num
      rw [hcast] at hbounds htie
      have hq' : q = (2 ^ 54 - 1) * P := by linarith [hbounds.1]
      have heven : n % 2 = 0 := by
        refine htie ?_
        rw [hq', abs_of_nonpos (by linarith)]
        ring
      omega
  · have hmono : 4 * (2 : ℝ) ^ 2044 ≤ 2 ^ e := by
      calc 4 * (2 : ℝ) ^ 2044 = 2 ^ (2 + 2044) := by rw [pow_add]; norm_num
        _ ≤ 2 ^ e := pow_le_pow_right₀ one_le_two (by omega)
    have hlower := h.lower.resolve_left (by omega)
    refine iff_of_true (by omega) ?_
    generalize (2 : ℝ) ^ 2044 = P at *
    linarith

theorem cast_val_abs (a : F64) : |(a.val : ℝ)| = a.mag := by
  rw [← val_natAbs a, Nat.cast_natAbs, Int.cast_abs]

/-- A finite value of the sign of `y` is as far from `y` as their magnitudes are from each other. -/
theorem dist_of_same_sign {r : F64} {y : ℝ} (hpos : 0 < y → r.sign = false) (hneg : y < 0 → r.sign = true) :
    |(r.val : ℝ) - y| = |(r.mag : ℝ) - (|y|)| := by
  unfold F64.val
  cases hs : r.sign
  · have hy : 0 ≤ y := by
      by_contra hlt
      simp [hneg (not_le.1 hlt)] at hs
    simp [abs_of_nonneg hy]
  · have hy : y ≤ 0 := by
      by_contra hlt
      simp [hpos (not_le.1 hlt)] at hs
    rw [abs_of_nonpos hy, if_pos rfl, abs_sub_comm]
    push_cast
    congr 1
    ring

/-- No finite F64 is nearer to `y` than one of its sign whose magnitude is rounded from that of `y`, and another one at
the same distance leaves `n` even. -/
theorem RoundsTo.nearest_val {y : ℝ} (h : RoundsTo |y| e n) {r : F64} (hr : r.mag = n * 2 ^ e)
    (hpos : 0 < y → r.sign = false) (hneg : y < 0 → r.sign = true) (c : F64) :
    |(r.val : ℝ) - y| ≤ |(c.val : ℝ) - y| ∧
      (c.val ≠ r.val → |(c.val : ℝ) - y| = |(r.val : ℝ) - y| → n % 2 = 0) := by
  have hcast : (r.mag : ℝ) = n * 2 ^ e := by rw [hr]; push_cast; rfl
  have hdist := dist_of_same_sign hpos hneg
  have hmags : |(c.mag : ℝ) - (|y|)| ≤ |(c.val : ℝ) - y| := by
    rw [← cast_val_abs c]
    exact abs_abs_sub_abs_le _ _
  have hnear := h.nearest_mag c
  rw [← hcast] at hnear
  refine ⟨by rw [hdist]; exact hnear.1.trans hmags, fun hne heq => ?_⟩
  by_cases hm : c.mag = r.mag
  · have hopp : c.val = -r.val := by
      have := val_natAbs c
      have := val_natAbs r
      omega
    have hy : y = 0 := by
      rcases abs_eq_abs.1 heq with hsame | hopposite
      · exact absurd (by exact_mod_cast sub_left_injective hsame) hne
      · rw [hopp] at hopposite
        push_cast at hopposite
        linarith
    have hzero := (h.nearest_mag (F64.zero false)).1
    rw [hy, abs_zero, sub_zero, sub_zero, show (F64.zero false).mag = 0 by decide, Nat.cast_zero, abs_zero,
      abs_nonpos_iff, mul_eq_zero, or_iff_left (by positivity), Nat.cast_eq_zero] at hzero
    rw [hzero]
  · exact hnear.2 (by exact_mod_cast hm) (by linarith [hnear.1])

/-- A magnitude rounded once, with its sign and with an infinity on overflow, is the nearest F64 (R8). -/
theorem RoundsTo.nearestEven {y : ℝ} (h : RoundsTo |y| e n) {neg : Bool} (hpos : 0 < y → neg = false)
    (hneg : y < 0 → neg = true) :
    NearestEven (F64.pack neg (min (e * 2 ^ 52 + n) (2047 * 2 ^ 52))) (y / 2 ^ 1074) := by
  have hU : (0 : ℝ) < 2 ^ 1074 := by positivity
  have hthreshold : (2 ^ 54 - 1) * 2 ^ 970 ≤ |y / 2 ^ 1074| ↔ 2047 * 2 ^ 52 ≤ e * 2 ^ 52 + n := by
    rw [h.overflow_iff, abs_div, abs_of_pos hU, le_div_iff₀ hU, mul_assoc, ← pow_add]
  have hpos' : 0 < y / 2 ^ 1074 ↔ 0 < y := by rw [lt_div_iff₀ hU, zero_mul]
  have hneg' : y / 2 ^ 1074 < 0 ↔ y < 0 := by rw [div_lt_iff₀ hU, zero_mul]
  unfold NearestEven
  split
  · next hbig =>
    have hover := hthreshold.1 hbig
    have hsign : decide (y / 2 ^ 1074 < 0) = neg := by
      rcases lt_trichotomy y 0 with hy | hy | hy
      · rw [hneg hy, decide_eq_true (hneg'.2 hy)]
      · rw [hy, zero_div, abs_zero] at hbig
        exact absurd hbig (by norm_num)
      · rw [hpos hy, decide_eq_false (hpos'.2 hy).not_gt]
    rw [Nat.min_eq_right hover, hsign]
    rfl
  · next hsmall =>
    have hfin : e * 2 ^ 52 + n < 2047 * 2 ^ 52 := not_le.1 (mt hthreshold.2 hsmall)
    have h63 : e * 2 ^ 52 + n < 2 ^ 63 := by omega
    rw [Nat.min_eq_left hfin.le]
    have hmag := pack_mag (neg := neg) h.le_significand h.significand_le hfin
    have hsign := pack_sign (neg := neg) h63
    have hnear := h.nearest_val hmag (by rwa [hsign]) (by rwa [hsign])
    have hscale (c : F64) : |(c.val : ℝ) / 2 ^ 1074 - y / 2 ^ 1074| = |(c.val : ℝ) - y| / 2 ^ 1074 := by
      rw [← sub_div, abs_div, abs_of_pos hU]
    refine ⟨?_, fun c _ => ?_, fun c _ hne heq => ?_, fun hx => ?_, fun hx => ?_⟩
    · have : (e * 2 ^ 52 + n) / 2 ^ 52 ≠ 2047 := by omega
      rw [F64.finite, pack_expField h63]
      exact bne_iff_ne.2 this
    · rw [hscale, hscale]
      exact div_le_div_of_nonneg_right (hnear c).1 hU.le
    · rw [hscale, hscale, div_left_inj' hU.ne'] at heq
      have := (hnear c).2 hne heq
      rw [pack_fracField h63]
      omega
    · rw [hsign]; exact hpos (hpos'.1 hx)
    · rw [hsign]; exact hneg (hneg'.1 hx)

end Specification

section Round

variable {num den : ℕ}

/-- The quotient chosen for an exponent is the nearest multiple, ties to even (R8). -/
theorem nearestEven_error (hden : 0 < den) (e : ℕ) :
    2 * |(F64.nearestEven num den e : ℤ) * (den * 2 ^ e) - num| ≤ den * 2 ^ e ∧
      (2 * |(F64.nearestEven num den e : ℤ) * (den * 2 ^ e) - num| = den * 2 ^ e →
        F64.nearestEven num den e % 2 = 0) := by
  have hd : 0 < den * 2 ^ e := Nat.mul_pos hden (Nat.two_pow_pos e)
  have hr := Nat.mod_lt num hd
  have hdm := Nat.div_add_mod' num (den * 2 ^ e)
  have hcast : ((den * 2 ^ e : ℕ) : ℤ) = den * 2 ^ e := by push_cast; rfl
  rw [← hcast]
  unfold F64.nearestEven
  dsimp only
  generalize den * 2 ^ e = d at *
  generalize num / d = f at *
  generalize num % d = r at *
  have hprod : ((f : ℤ) + 1) * d = f * d + d := by ring
  have hnum : (f : ℤ) * d + r = num := by exact_mod_cast hdm
  split
  · next hup =>
    simp only [Bool.or_eq_true, decide_eq_true_eq, Bool.and_eq_true, beq_iff_eq] at hup
    push_cast
    rw [hprod, abs_of_nonneg (by omega)]
    omega
  · next hdown =>
    simp only [Bool.or_eq_true, decide_eq_true_eq, Bool.and_eq_true, beq_iff_eq] at hdown
    rw [abs_of_nonpos (by omega)]
    omega

/-- The last place of a number below 2^53 is the unit; of any other it is 52 places below the leading bit. -/
theorem lastPlace_bounds (num den : ℕ) :
    (F64.lastPlace num den = 0 ∨ 2 ^ 52 * 2 ^ F64.lastPlace num den ≤ num / den) ∧
      num / den < 2 ^ 53 * 2 ^ F64.lastPlace num den := by
  unfold F64.lastPlace
  generalize num / den = f
  have hup : f < 2 ^ (f.log2 + 1) := Nat.lt_log2_self
  constructor
  · rcases Nat.eq_zero_or_pos (f.log2 - 52) with h0 | hpos
    · exact .inl h0
    · have hf : f ≠ 0 := by
        rintro rfl
        simp at hpos
      rw [← Nat.pow_add, show 52 + (f.log2 - 52) = f.log2 by omega]
      exact .inr (Nat.log2_self_le hf)
  · rw [← Nat.pow_add]
    exact hup.trans_le (Nat.pow_le_pow_right (by omega) (by omega))

/-- The exponent and the significand that `F64.round` packs are `num / den` rounded once (R8). -/
theorem roundsTo_of_div (hden : 0 < den) : RoundsTo ((num : ℝ) / den) (F64.lastPlace num den)
    (F64.nearestEven num den (F64.lastPlace num den)) := by
  obtain ⟨hlow, hup⟩ := lastPlace_bounds num den
  obtain ⟨herr, htie⟩ := nearestEven_error (num := num) hden (F64.lastPlace num den)
  generalize F64.lastPlace num den = e at *
  generalize F64.nearestEven num den e = n at *
  have hD : (0 : ℝ) < den := by exact_mod_cast hden
  have habs : 2 * |(n : ℝ) * 2 ^ e - num / den| * den = ((2 * |(n : ℤ) * (den * 2 ^ e) - num| : ℤ) : ℝ) := by
    push_cast
    rw [mul_assoc, ← abs_of_pos hD, ← abs_mul, abs_of_pos hD, sub_mul, div_mul_cancel₀ _ hD.ne']
    congr 3
    ring
  have hP : (2 : ℝ) ^ e * den = ((den * 2 ^ e : ℤ) : ℝ) := by push_cast; ring
  refine ⟨by positivity, ?_, ?_, ?_, fun heq => htie ?_⟩
  · rcases hlow with h0 | hle
    · exact .inl h0
    · rw [Nat.le_div_iff_mul_le hden] at hle
      rw [le_div_iff₀ hD]
      exact .inr (by exact_mod_cast hle)
  · rw [Nat.div_lt_iff_lt_mul hden] at hup
    rw [div_lt_iff₀ hD]
    exact_mod_cast hup
  · refine le_of_mul_le_mul_right ?_ hD
    rw [habs, hP]
    exact_mod_cast herr
  · have heq' := congrArg (fun x => x * (den : ℝ)) heq
    rw [habs, hP] at heq'
    exact_mod_cast heq'

/-- `F64.round` gives the F64 nearest to `y` units, where `num / den` is the magnitude of `y` and the sign fits. -/
theorem round_nearestEven {neg : Bool} {y : ℝ} (hden : 0 < den) (hy : |y| = num / den) (hpos : 0 < y → neg = false)
    (hneg : y < 0 → neg = true) : NearestEven (F64.round neg num den) (y / 2 ^ 1074) := by
  have h : RoundsTo |y| (F64.lastPlace num den) (F64.nearestEven num den (F64.lastPlace num den)) :=
    hy ▸ roundsTo_of_div hden
  exact h.nearestEven hpos hneg

/-- The sign of a rounded value is the one asked for, also of a zero or an infinity. -/
theorem round_sign (neg : Bool) (num den : ℕ) : (F64.round neg num den).sign = neg :=
  pack_sign (by omega)

end Round

section Operations

variable {a b : F64}

theorem round_zero (neg : Bool) : F64.round neg 0 1 = F64.zero neg := by cases neg <;> decide +kernel

theorem val_neg (a : F64) : a.neg.val = -a.val := by
  have hmag : a.neg.mag = a.mag := mag_eq_of_magBits_eq (neg_magBits a)
  unfold F64.val
  rw [neg_sign, hmag]
  cases a.sign <;> simp

/-- A positive value has a plus sign, a negative one a minus sign. -/
theorem sign_of_val (a : F64) : (0 < a.val → a.sign = false) ∧ (a.val < 0 → a.sign = true) := by
  unfold F64.val
  cases a.sign <;> simp

theorem add_of_finite (nan : F64) (ha : a.finite = true) (hb : b.finite = true) :
    F64.add nan a b = F64.addFinite a b := by
  simp [F64.add, finite_not_special ha, finite_not_special hb]

theorem addFinite_nearestEven (a b : F64) :
    NearestEven (F64.addFinite a b) ((a.val : ℝ) / 2 ^ 1074 + (b.val : ℝ) / 2 ^ 1074) := by
  have hround (neg : Bool) (hpos : 0 < a.val + b.val → neg = false) (hneg : a.val + b.val < 0 → neg = true) :
      NearestEven (F64.round neg (a.val + b.val).natAbs 1) ((a.val : ℝ) / 2 ^ 1074 + (b.val : ℝ) / 2 ^ 1074) := by
    rw [← add_div, ← Int.cast_add]
    refine round_nearestEven Nat.one_pos ?_ ?_ ?_
    · rw [Nat.cast_natAbs, Int.cast_abs, Nat.cast_one, div_one]
    · exact fun h => hpos (by exact_mod_cast h)
    · exact fun h => hneg (by exact_mod_cast h)
  unfold F64.addFinite
  dsimp only
  split
  · next h0 =>
    have := hround (a.sign && b.sign) (by omega) (by omega)
    rwa [h0, Int.natAbs_zero, round_zero] at this
  · refine hround _ ?_ ?_
    · exact fun h => decide_eq_false (by omega)
    · exact fun h => decide_eq_true h

end Operations

/-- Settles O52: the sum of two multiples of 2^-1074 is exact before its one rounding, and a difference is a sum. -/
theorem additionAndSubtractionRoundOnce : Obligations.AdditionAndSubtractionRoundOnce := by
  intro nan a b ha hb
  refine ⟨?_, ?_, fun h0 => ?_⟩
  · rw [add_of_finite nan ha hb]
    exact addFinite_nearestEven a b
  · have h := addFinite_nearestEven a b.neg
    rw [val_neg, Int.cast_neg, neg_div, ← sub_eq_add_neg] at h
    rwa [F64.sub, add_of_finite nan ha (by rwa [neg_finite])]
  · rw [add_of_finite nan ha hb, F64.addFinite]
    exact if_pos h0

section Operations

variable {a b : F64}

/-- The sign of a product or quotient of values is the exclusive or of their signs. -/
theorem xor_sign_of_mul_val (a b : F64) :
    (0 < a.val * b.val → (a.sign != b.sign) = false) ∧ (a.val * b.val < 0 → (a.sign != b.sign) = true) := by
  constructor
  · intro h
    rcases mul_pos_iff.1 h with ⟨ha, hb⟩ | ⟨ha, hb⟩
    · rw [(sign_of_val a).1 ha, (sign_of_val b).1 hb]; rfl
    · rw [(sign_of_val a).2 ha, (sign_of_val b).2 hb]; rfl
  · intro h
    rcases mul_neg_iff.1 h with ⟨ha, hb⟩ | ⟨ha, hb⟩
    · rw [(sign_of_val a).1 ha, (sign_of_val b).2 hb]; rfl
    · rw [(sign_of_val a).2 ha, (sign_of_val b).1 hb]; rfl

theorem mul_of_finite (nan : F64) (ha : a.finite = true) (hb : b.finite = true) :
    F64.mul nan a b = F64.round (a.sign != b.sign) (a.mag * b.mag) (2 ^ 1074) := by
  simp only [F64.mul, finite_not_special ha, finite_not_special hb, Bool.or_self, Bool.false_eq_true, ↓reduceIte]

theorem div_of_finite (nan : F64) (ha : a.finite = true) (hb : b.finite = true) (hz : b.isZero = false) :
    F64.div nan a b = F64.round (a.sign != b.sign) (a.mag * 2 ^ 1074) b.mag := by
  simp only [F64.div, finite_not_special ha, finite_not_special hb, hz, Bool.or_self, Bool.false_eq_true, ↓reduceIte]

theorem mul_nearestEven (nan : F64) (ha : a.finite = true) (hb : b.finite = true) :
    NearestEven (F64.mul nan a b) ((a.val : ℝ) / 2 ^ 1074 * ((b.val : ℝ) / 2 ^ 1074)) := by
  have hU : (0 : ℝ) < 2 ^ 1074 := by positivity
  obtain ⟨hpos, hneg⟩ := xor_sign_of_mul_val a b
  rw [mul_of_finite nan ha hb, div_mul_div_comm, ← div_div]
  refine round_nearestEven (by positivity) ?_ (fun h => hpos ?_) (fun h => hneg ?_)
  · rw [abs_div, abs_mul, cast_val_abs, cast_val_abs, abs_of_pos hU, Nat.cast_mul, Nat.cast_pow, Nat.cast_ofNat]
  · rw [lt_div_iff₀ hU, zero_mul] at h
    exact_mod_cast h
  · rw [div_lt_iff₀ hU, zero_mul] at h
    exact_mod_cast h

theorem div_nearestEven (nan : F64) (ha : a.finite = true) (hb : b.finite = true) (hz : b.isZero = false) :
    NearestEven (F64.div nan a b) ((a.val : ℝ) / 2 ^ 1074 / ((b.val : ℝ) / 2 ^ 1074)) := by
  have hU : (0 : ℝ) < 2 ^ 1074 := by positivity
  have hmag : 0 < b.mag := by
    rw [Nat.pos_iff_ne_zero, Ne, mag_eq_zero]
    simpa [F64.isZero] using hz
  have hval : (b.val : ℝ) ≠ 0 := by
    rw [← abs_pos, cast_val_abs]
    exact_mod_cast hmag
  have hscale : 0 < 2 ^ 1074 / (b.val : ℝ) ^ 2 := by positivity
  have hquot : (a.val : ℝ) / 2 ^ 1074 / ((b.val : ℝ) / 2 ^ 1074) = a.val * 2 ^ 1074 / b.val / 2 ^ 1074 := by
    field_simp
  have hsign : (a.val : ℝ) * 2 ^ 1074 / b.val = ((a.val * b.val : ℤ) : ℝ) * (2 ^ 1074 / (b.val : ℝ) ^ 2) := by
    push_cast
    field_simp
  obtain ⟨hpos, hneg⟩ := xor_sign_of_mul_val a b
  rw [div_of_finite nan ha hb hz, hquot]
  refine round_nearestEven hmag ?_ (fun h => hpos ?_) (fun h => hneg ?_)
  · rw [abs_div, abs_mul, cast_val_abs, cast_val_abs, abs_of_pos hU, Nat.cast_mul, Nat.cast_pow, Nat.cast_ofNat]
  · rw [hsign, mul_pos_iff_of_pos_right hscale] at h
    exact_mod_cast h
  · rw [hsign, mul_neg_iff] at h
    rcases h with ⟨-, h⟩ | ⟨h, -⟩
    · exact absurd h hscale.not_gt
    · exact_mod_cast h

end Operations

/-- Settles O53: the exact product and quotient, and the sign, are given to the one rounding. -/
theorem multiplicationAndDivisionRoundOnce : Obligations.MultiplicationAndDivisionRoundOnce := by
  intro nan a b ha hb
  refine ⟨mul_nearestEven nan ha hb, ?_, fun hz => ⟨div_nearestEven nan ha hb hz, ?_⟩⟩
  · rw [mul_of_finite nan ha hb]
    exact round_sign ..
  · rw [div_of_finite nan ha hb hz]
    exact round_sign ..

section SquareRoot

variable {Q q : ℝ} {e n : ℕ}

/-- Rounding looks at `q` only through comparisons with half units of its last place. -/
theorem RoundsTo.congr (h : RoundsTo q e n) (hle : ∀ k : ℤ, k * 2 ^ e ≤ 2 * q ↔ k * 2 ^ e ≤ 2 * Q)
    (hge : ∀ k : ℤ, 2 * q ≤ k * 2 ^ e ↔ 2 * Q ≤ k * 2 ^ e) : RoundsTo Q e n := by
  have hlow := (hle (2 * n - 1)).1 (by push_cast; exact h.error_bounds.2)
  have hup := (hge (2 * n + 1)).1 (by push_cast; exact h.error_bounds.1)
  push_cast at hlow hup
  refine ⟨?_, ?_, ?_, ?_, fun heq => ?_⟩
  · have := (hle 0).1 (by simpa using h.nonneg)
    simpa using this
  · refine h.lower.imp_right fun hlower => ?_
    have := (hle (2 * 2 ^ 52)).1 (by push_cast; linarith)
    push_cast at this
    linarith
  · refine lt_of_not_ge fun hQ => ?_
    have := (hle (2 * 2 ^ 53)).2 (by push_cast; linarith)
    push_cast at this
    linarith [h.upper]
  · have : |(n : ℝ) * 2 ^ e - Q| ≤ 2 ^ e / 2 := abs_le.2 ⟨by linarith, by linarith⟩
    linarith
  · refine h.tie ?_
    rcases le_total ((n : ℝ) * 2 ^ e) Q with hn | hn
    · rw [abs_of_nonpos (by linarith)] at heq
      have := (hle (2 * n + 1)).2 (by push_cast; linarith)
      push_cast at this
      have hq : 2 * q = (2 * n + 1) * 2 ^ e := le_antisymm h.error_bounds.1 this
      rw [abs_of_nonpos (by linarith [abs_nonneg ((n : ℝ) * 2 ^ e - Q)])]
      linarith
    · rw [abs_of_nonneg (by linarith)] at heq
      have := (hge (2 * n - 1)).2 (by push_cast; linarith)
      push_cast at this
      have hq : 2 * q = (2 * n - 1) * 2 ^ e := le_antisymm this h.error_bounds.2
      rw [abs_of_nonneg (by linarith [abs_nonneg ((n : ℝ) * 2 ^ e - Q)])]
      linarith

/-- `r` and the sticky bit say where `Q` lies among the multiples of 2^j: on the `r`-th, or strictly above it and below
the next one. -/
def Sticky (Q : ℝ) (r sticky j : ℕ) : Prop :=
  sticky = 0 ∧ Q = r * 2 ^ j ∨ sticky = 1 ∧ r * 2 ^ j < Q ∧ Q < (r + 1) * 2 ^ j

/-- `Q` compares with the multiples of 2^j as the number does that its integer root and sticky bit stand for. -/
theorem Sticky.compare {r sticky j : ℕ} (hs : Sticky Q r sticky j) (k : ℤ) :
    ((k : ℝ) * 2 ^ j ≤ ((2 * r + sticky) * 2 ^ j / 2 : ℝ) ↔ (k : ℝ) * 2 ^ j ≤ Q) ∧
      (((2 * r + sticky) * 2 ^ j / 2 : ℝ) ≤ k * 2 ^ j ↔ Q ≤ k * 2 ^ j) := by
  rcases hs with ⟨rfl, hQ⟩ | ⟨rfl, hlo, hhi⟩
  · have : (2 * (r : ℝ) + (0 : ℕ)) * 2 ^ j / 2 = Q := by rw [hQ]; push_cast; ring
    rw [this]
    exact ⟨Iff.rfl, Iff.rfl⟩
  have hP : (0 : ℝ) < 2 ^ j := by positivity
  rcases le_or_gt k r with hk | hk
  · have hk' : (k : ℝ) * 2 ^ j ≤ r * 2 ^ j := mul_le_mul_of_nonneg_right (by exact_mod_cast hk) hP.le
    push_cast
    exact ⟨iff_of_true (by linarith) (by linarith), iff_of_false (by linarith) (by linarith)⟩
  · have hk' : ((r : ℝ) + 1) * 2 ^ j ≤ k * 2 ^ j := mul_le_mul_of_nonneg_right (by exact_mod_cast hk) hP.le
    push_cast
    exact ⟨iff_of_false (by linarith) (by linarith), iff_of_true (by linarith) (by linarith)⟩

/-- Where the integer root has more bits than an F64, a rounding of it with its sticky bit is a rounding of `Q`. -/
theorem RoundsTo.of_sticky {r sticky j : ℕ} (h : RoundsTo ((2 * r + sticky) * 2 ^ j / 2) e n)
    (hs : Sticky Q r sticky j) (hr : 2 ^ 54 ≤ r) : RoundsTo Q e n := by
  have hP : (0 : ℝ) < 2 ^ j := by positivity
  have hj : j + 1 ≤ e := by
    by_contra hlt
    have hpow : (2 : ℝ) ^ e ≤ 2 ^ j := pow_le_pow_right₀ one_le_two (by omega)
    have hr' : (2 : ℝ) ^ 54 * 2 ^ j ≤ r * 2 ^ j := mul_le_mul_of_nonneg_right (by exact_mod_cast hr) hP.le
    have hst : 0 ≤ (sticky : ℝ) * 2 ^ j := by positivity
    linarith [h.upper]
  obtain ⟨i, rfl⟩ := Nat.exists_eq_add_of_le hj
  have hgrid (k : ℤ) : (k : ℝ) * 2 ^ (j + 1 + i) = 2 * (((k * 2 ^ i : ℤ) : ℝ) * 2 ^ j) := by
    push_cast
    ring
  refine h.congr (fun k => ?_) fun k => ?_
  · rw [hgrid, mul_le_mul_iff_right₀ two_pos, mul_le_mul_iff_right₀ two_pos]
    exact (hs.compare _).1
  · rw [hgrid, mul_le_mul_iff_right₀ two_pos, mul_le_mul_iff_right₀ two_pos]
    exact (hs.compare _).2

/-- The integer square root is the greatest number whose square is not above `n`. -/
theorem isqrt_spec (fuel n : ℕ) (hn : n < 4 ^ fuel) :
    F64.isqrt fuel n * F64.isqrt fuel n ≤ n ∧ n < (F64.isqrt fuel n + 1) * (F64.isqrt fuel n + 1) := by
  induction fuel generalizing n with
  | zero =>
    have : n = 0 := by omega
    simp [F64.isqrt, this]
  | succ fuel ih =>
    have hquarter : n / 4 < 4 ^ fuel := by rw [Nat.pow_succ] at hn; omega
    obtain ⟨hlo, hhi⟩ := ih (n / 4) hquarter
    unfold F64.isqrt
    dsimp only
    generalize F64.isqrt fuel (n / 4) = r at *
    have hsq : 2 * r * (2 * r) = 4 * (r * r) := by ring
    have hnext : (2 * r + 1 + 1) * (2 * r + 1 + 1) = 4 * ((r + 1) * (r + 1)) := by ring
    split
    · next hle => exact ⟨hle, by omega⟩
    · next hgt => exact ⟨by omega, by omega⟩

/-- A finite magnitude is its significand times its power of two. -/
theorem mag_eq_significand (a : F64) : a.mag = a.significand.2 * 2 ^ a.significand.1 := by
  unfold F64.mag F64.significand
  split <;> simp

theorem significand_lt (a : F64) : a.significand.2 < 2 ^ 53 := by
  have := fracField_lt a
  unfold F64.significand
  split
  · dsimp only; omega
  · dsimp only; omega

/-- The significand of a magnitude with an even exponent, as `sqrtFinite` takes it. -/
def evenSignificand (a : F64) : ℕ := if a.significand.1 % 2 = 0 then a.significand.2 else 2 * a.significand.2

theorem mag_eq_evenSignificand (a : F64) : a.mag = evenSignificand a * 2 ^ (2 * (a.significand.1 / 2)) := by
  rw [mag_eq_significand]
  unfold evenSignificand
  split
  · next h => rw [Nat.mul_div_cancel' (Nat.dvd_of_mod_eq_zero h)]
  · next h =>
    conv_lhs => rw [← Nat.div_add_mod a.significand.1 2, Nat.mod_two_ne_zero.1 h, Nat.pow_succ]
    ring

theorem evenSignificand_lt (a : F64) : evenSignificand a < 2 ^ 54 := by
  have := significand_lt a
  unfold evenSignificand
  split <;> omega

/-- The integer whose root `sqrtFinite` takes. -/
def radicand (a : F64) : ℕ := evenSignificand a * 2 ^ 108

/-- The exponent of two by which `sqrtFinite` scales the integer root. -/
def rootExponent (a : F64) : ℕ := a.significand.1 / 2 + 537 - 54

/-- The last bit of `sqrtFinite`: whether the integer root is not exact. -/
def stickyBit (a : F64) : ℕ :=
  if F64.isqrt 82 (radicand a) * F64.isqrt 82 (radicand a) = radicand a then 0 else 1

theorem sqrtFinite_eq_round (a : F64) : a.sqrtFinite =
    F64.round false ((2 * F64.isqrt 82 (radicand a) + stickyBit a) * 2 ^ rootExponent a) 2 := rfl

/-- The real root of a magnitude is the root of its radicand, scaled. -/
theorem sqrt_mag (a : F64) :
    Real.sqrt ((a.mag : ℝ) / 2 ^ 1074) = Real.sqrt (radicand a) * 2 ^ rootExponent a / 2 ^ 1074 := by
  have hexp : 2 * (a.significand.1 / 2) + 1074 = 108 + 2 * rootExponent a := by
    unfold rootExponent
    omega
  have hsq : (a.mag : ℝ) / 2 ^ 1074 = radicand a * (2 ^ rootExponent a / 2 ^ 1074) ^ 2 := by
    have hmag : (a.mag : ℝ) * 2 ^ 1074 = radicand a * (2 ^ rootExponent a) ^ 2 := by
      rw [mag_eq_evenSignificand, radicand, Nat.cast_mul, Nat.cast_mul, Nat.cast_pow, Nat.cast_pow, Nat.cast_ofNat,
        mul_assoc, ← pow_add, hexp, mul_assoc, ← pow_mul, ← pow_add, Nat.mul_comm (rootExponent a)]
    rw [div_pow, ← mul_div_assoc, ← hmag, sq, mul_div_mul_right _ _ (by positivity)]
  rw [hsq, Real.sqrt_mul (by positivity), Real.sqrt_sq (by positivity), mul_div_assoc]

/-- The integer root and its last bit stand for the real root of the radicand. -/
theorem sticky_sqrt (a : F64) : Sticky (Real.sqrt (radicand a) * 2 ^ rootExponent a) (F64.isqrt 82 (radicand a))
    (stickyBit a) (rootExponent a) := by
  have hlt : radicand a < 4 ^ 82 := by
    have := evenSignificand_lt a
    unfold radicand
    omega
  obtain ⟨hlo, hhi⟩ := isqrt_spec 82 (radicand a) hlt
  have hP : (0 : ℝ) < 2 ^ rootExponent a := by positivity
  unfold stickyBit
  generalize F64.isqrt 82 (radicand a) = r at *
  split
  · next hexact =>
    refine .inl ⟨rfl, ?_⟩
    rw [← hexact, Nat.cast_mul, Real.sqrt_mul_self (Nat.cast_nonneg r)]
  · next hinexact =>
    have hlo' : (r : ℝ) < Real.sqrt (radicand a) := by
      rw [Real.lt_sqrt (Nat.cast_nonneg r), sq]
      exact_mod_cast lt_of_le_of_ne hlo hinexact
    have hhi' : Real.sqrt (radicand a) < (r : ℝ) + 1 := by
      rw [Real.sqrt_lt' (by positivity), sq]
      exact_mod_cast hhi
    exact .inr ⟨rfl, mul_lt_mul_of_pos_right hlo' hP, mul_lt_mul_of_pos_right hhi' hP⟩

/-- The integer root of a non-zero magnitude has more bits than an F64. -/
theorem le_isqrt_radicand {a : F64} (h : a.mag ≠ 0) : 2 ^ 54 ≤ F64.isqrt 82 (radicand a) := by
  have hev : evenSignificand a ≠ 0 := by
    intro h0
    rw [mag_eq_evenSignificand, h0, Nat.zero_mul] at h
    exact h rfl
  have hlt := evenSignificand_lt a
  have hrad : 2 ^ 54 * 2 ^ 54 ≤ radicand a ∧ radicand a < 4 ^ 82 := by
    unfold radicand
    omega
  have hhi := (isqrt_spec 82 (radicand a) hrad.2).2
  by_contra hsmall
  have := Nat.mul_le_mul (not_le.1 hsmall) (not_le.1 hsmall)
  simp only [Nat.succ_eq_add_one] at this
  omega

theorem sqrtFinite_nearestEven {a : F64} (h : a.mag ≠ 0) :
    NearestEven a.sqrtFinite (Real.sqrt ((a.mag : ℝ) / 2 ^ 1074)) := by
  have hround := roundsTo_of_div (den := 2)
    (num := (2 * F64.isqrt 82 (radicand a) + stickyBit a) * 2 ^ rootExponent a) two_pos
  push_cast at hround
  have hroot := hround.of_sticky (sticky_sqrt a) (le_isqrt_radicand h)
  have hnonneg := hroot.nonneg
  rw [← abs_of_nonneg hnonneg] at hroot
  rw [sqrt_mag, sqrtFinite_eq_round]
  exact hroot.nearestEven (fun _ => rfl) fun hneg => absurd hneg hnonneg.not_gt

end SquareRoot

/-- Settles O54: a zero is its own root, and any other root is rounded from the integer root and its sticky bit. -/
theorem squareRootIsCorrectlyRounded : Obligations.SquareRootIsCorrectlyRounded := by
  intro nan a ha hs
  obtain ⟨hnan, hinf⟩ := finite_not_special ha
  have hval : (a.val : ℝ) = a.mag := by simp [F64.val, hs]
  rw [hval]
  cases hz : a.isZero
  · have hmag : a.mag ≠ 0 := by
      rw [Ne, mag_eq_zero]
      simpa [F64.isZero] using hz
    rw [show F64.sqrt nan a = a.sqrtFinite by simp [F64.sqrt, hnan, hz, hs, hinf]]
    exact sqrtFinite_nearestEven hmag
  · have hbits : a.magBits = 0 := by simpa [F64.isZero] using hz
    have hself : a = F64.zero false := by
      rw [← pack_self a, hs, hbits]
      rfl
    have hzero := round_nearestEven (neg := false) (num := 0) (y := 0) Nat.one_pos (by simp) (fun _ => rfl) (by simp)
    rw [round_zero, zero_div, ← hself] at hzero
    rwa [sqrt_of_isZero nan hz, (mag_eq_zero a).2 hbits, Nat.cast_zero, zero_div, Real.sqrt_zero]

end Sys2Proof
end

section
/-! PROOFS. O40, O41, O44 and O45, what every step keeps of the units. First what the rules leave of a unit's registers,
then, once for all four, what an instruction can do to the state: it answers, is refused, or runs a rule on one unit.
Each statement then follows from that case split and the facts about the rules. -/

namespace Sys2Proof.Machine

section Rules

variable {U : Type}

/-- What a `SETP` rule with a derivation does: the parameters are written, and an initialised unit derives its
coefficients (R135, R149, R159, R192). -/
theorem setp_apply (f : U → U) (init : U → Bool) (derive : Calc U Unit) (w : Work U) :
    (do
      plain f
      if init (← regs) then derive
      return ([] : List Word64) : Calc U (List Word64)) w =
      ([], if init (f w.regs) then (derive { w with regs := f w.regs }).2 else { w with regs := f w.regs }) := by
  cases h : init (f w.regs)
  · simp only [calc_bind, regs_apply, plain_apply, h, Bool.false_eq_true, ↓reduceIte]
    rfl
  · simp only [calc_bind, regs_apply, plain_apply, h, ↓reduceIte]
    rfl

/-- The registers of a work are `u`'s in all that `f` shows. A structure, so that unification does not look inside. -/
structure Shows {β : Type} (f : U → β) (u : U) (w : Work U) : Prop where
  regs_eq : f w.regs = f u

section Shows

variable {β : Type} {f : U → β} {u : U} {w : Work U}

/-- An arithmetic operation writes no register. -/
theorem Shows.tick (h : Shows f u w) : Shows f u w.tick := ⟨h.regs_eq⟩

/-- `out` writes no register (R14). -/
theorem Shows.out (h : Shows f u w) (v : F64) : Shows f u (out v w).2 := ⟨h.regs_eq⟩

/-- `wr` writes its register alone (R13). -/
theorem Shows.wr (h : Shows f u w) {r : Reg U} (hr : ∀ v u, f (r.set v u) = f u) (v : F64) :
    Shows f u (wr r v w).2 := ⟨(hr _ _).trans h.regs_eq⟩

/-- A stage writes its own state register alone (R131). -/
theorem Shows.stage (h : Shows f u w) {r : Reg U} (hr : ∀ v u, f (r.set v u) = f u) (kind : StageKind) (g x : F64) :
    Shows f u (stage kind g r x w).2 := by
  cases kind
  · exact ⟨(hr _ _).trans h.regs_eq⟩
  · exact ⟨(hr _ _).trans h.regs_eq⟩

/-- A property that depends only on what `f` shows carries over. -/
theorem Shows.transfer {f : U → U} (h : Shows f u w) {P : U → Prop} (hP : ∀ v, P (f v) ↔ P v) (hu : P u) :
    P w.regs := by
  have hf : P (f w.regs) := by
    rw [h.regs_eq]
    exact (hP u).2 hu
  exact (hP w.regs).1 hf

end Shows

theorem allNaN_nanAt (u : UnitId) (d : Nat) : AllNaN fun k => nanAt u (d + k) := fun _ => nanAt_isNaN _ _

end Rules

section Biquad

/-- R114: parameters and coefficients only. -/
theorem ruleSetpBq_frame (fc : F64) (w : Work Bq) :
    let v := (ruleSetpBq fc w).2.regs
    v = { w.regs with fc := v.fc, a0 := v.a0, a1 := v.a1, a2 := v.a2, b1 := v.b1, b2 := v.b2 } := by
  cases hne : F64.ne fc w.regs.fc
  · simp [ruleSetpBq, hne]
  cases hi : w.regs.init
  · simp [ruleSetpBq, hne, hi]
  · simp only [ruleSetpBq, calc_bind, regs_apply, hne, plain_apply, hi, ↓reduceIte]
    rfl

/-- R116: FORM and ZV only. -/
theorem ruleSetformBq_frame (f : Form) (w : Work Bq) :
    let v := (ruleSetformBq f w).2.regs
    v = { w.regs with form := v.form, zv := v.zv } := by
  by_cases hf : f = w.regs.form
  · simp [ruleSetformBq, hf]
  · simp [ruleSetformBq, hf]

/-- R118 to R121: no realization writes INIT. -/
theorem ruleProcBq_init (x : F64) (w : Work Bq) : (ruleProcBq x w).2.regs.init = w.regs.init := by
  simp only [ruleProcBq, calc_bind, regs_apply]
  cases w.regs.form with
  | direct => rfl
  | canonical => rfl
  | transposedDirect => rfl
  | transposedCanonical => rfl

end Biquad

section Filters

/-- All registers of ZLP or ZHP but the state-class one (R33, R38). -/
def Zdf.settings (u : Zdf) : Zdf := { u with s := pz }

/-- All registers of LLP or LHP but the state-class ones (R33, R39). -/
def Ladder.settings (u : Ladder) : Ladder := { u with s1 := pz, s2 := pz, s3 := pz, s4 := pz }

/-- All registers of SKH but the state-class ones (R33, R40). -/
def Skh.settings (u : Skh) : Skh := { u with s1 := pz, s2 := pz }

/-- The gains of a stage of either kind, as R132 gives them. -/
def StageGains : StageKind → F64 → F64 → F64 → F64 → F64 → Prop
  | .lp => LpGains
  | .hp => HpGains

/-- The derived registers of ZLP or ZHP follow FC and SR (R132). -/
def Zdf.Derived (kind : StageKind) (u : Zdf) : Prop := StageGains kind u.fc u.sr u.gs u.gg u.gr

/-- The derived registers of LLP or LHP follow FC, RES and SR (R146). -/
def Ladder.Derived (kind : StageKind) (u : Ladder) : Prop :=
  StageGains kind u.fc u.sr u.gs u.gg u.gr ∧ LadderLoop u

theorem zdfGains_regs {U : Type} (kind : StageKind) (fc sr : F64) (w : Work U) :
    (zdfGains kind fc sr w).2.regs = w.regs := by
  cases kind <;> rfl

theorem zdfGains_stageGains {U : Type} (kind : StageKind) (fc sr : F64) (w : Work U) :
    StageGains kind fc sr (zdfGains kind fc sr w).1.gs (zdfGains kind fc sr w).1.gg (zdfGains kind fc sr w).1.gr := by
  cases kind
  · exact ⟨_, allNaN_nanAt w.unit w.draws, rfl, rfl, rfl⟩
  · exact ⟨_, allNaN_nanAt w.unit w.draws, rfl, rfl, rfl⟩

theorem deriveZdf_init (kind : StageKind) (w : Work Zdf) : (deriveZdf kind w).2.regs.init = w.regs.init := by
  cases kind <;> rfl

theorem deriveZdf_derived (kind : StageKind) (w : Work Zdf) : (deriveZdf kind w).2.regs.Derived kind := by
  have hgains := zdfGains_stageGains kind w.regs.fc w.regs.sr w
  simpa only [Zdf.Derived, deriveZdf, calc_bind, regs_apply, plain_apply, zdfGains_regs] using hgains

/-- R133, R134. -/
theorem ruleResetZdf_apply (kind : StageKind) (sr : F64) (w : Work Zdf) :
    ruleResetZdf kind sr w =
      ([], (deriveZdf kind { w with regs := { w.regs with sr := sr, s := fZero, init := true } }).2) := rfl

/-- R135, R136. -/
theorem ruleSetpZdf_apply (kind : StageKind) (fc : F64) (w : Work Zdf) :
    ruleSetpZdf kind fc w =
      let v := { w with regs := { w.regs with fc := fc } }
      ([], if w.regs.init then (deriveZdf kind v).2 else v) := setp_apply _ _ _ w

/-- R137, R138: S only. -/
theorem ruleProcZdf_settings (kind : StageKind) (x : F64) (w : Work Zdf) :
    Shows Zdf.settings w.regs (ruleProcZdf kind x w).2 := by
  simp only [ruleProcZdf, calc_bind, calc_pure, regs_apply]
  exact (Shows.stage ⟨rfl⟩ (fun _ _ => rfl) kind _ x).out _

theorem deriveLad_init (kind : StageKind) (w : Work Ladder) : (deriveLad kind w).2.regs.init = w.regs.init := by
  cases kind <;> rfl

theorem deriveLad_derived (kind : StageKind) (w : Work Ladder) : (deriveLad kind w).2.regs.Derived kind := by
  have hgains := zdfGains_stageGains kind w.regs.fc w.regs.sr w
  refine ⟨?_, ?_⟩
  · simpa only [deriveLad, calc_bind, regs_apply, fmul_apply, plain_apply, tick_regs, zdfGains_regs] using hgains
  · have hnan := allNaN_nanAt (zdfGains kind w.regs.fc w.regs.sr w).2.unit
      (zdfGains kind w.regs.fc w.regs.sr w).2.draws
    simp only [deriveLad, calc_bind, regs_apply, fmul_apply, plain_apply, tick_regs, zdfGains_regs]
    exact ⟨_, hnan, rfl, rfl, rfl, rfl⟩

/-- R147, R148. -/
theorem ruleResetLad_apply (kind : StageKind) (sr : F64) (w : Work Ladder) :
    ruleResetLad kind sr w =
      ([], (deriveLad kind { w with regs :=
        { w.regs with sr := sr, s1 := fZero, s2 := fZero, s3 := fZero, s4 := fZero, init := true } }).2) := rfl

/-- R149, R150. -/
theorem ruleSetpLad_apply (kind : StageKind) (fc res : F64) (w : Work Ladder) :
    ruleSetpLad kind fc res w =
      let v := { w with regs := { w.regs with fc := fc, res := res } }
      ([], if w.regs.init then (deriveLad kind v).2 else v) := setp_apply _ _ _ w

theorem ladSigma_settings (kind : StageKind) (w : Work Ladder) : Shows Ladder.settings w.regs (ladSigma kind w).2 := by
  cases kind
  · exact ⟨rfl⟩
  · exact ⟨rfl⟩

/-- R152, R153: S1 to S4 only. -/
theorem ruleProcLad_settings (kind : StageKind) (x : F64) (w : Work Ladder) :
    Shows Ladder.settings w.regs (ruleProcLad kind x w).2 := by
  simp only [ruleProcLad, calc_bind, calc_pure, regs_apply, fmul_apply, fadd_apply, fsub_apply, fdiv_apply]
  refine .out (.stage (.stage (.stage (.stage ?_ ?_ _ _ _) ?_ _ _ _) ?_ _ _ _) ?_ _ _ _) _
  · apply_rules only [Shows.tick]
    exact ladSigma_settings kind w
  all_goals exact fun _ _ => rfl

theorem deriveSkh_init (w : Work Skh) : (deriveSkh w).2.regs.init = w.regs.init := rfl

theorem deriveSkh_coefs (w : Work Skh) : SkhCoefs (deriveSkh w).2.regs :=
  ⟨_, allNaN_nanAt w.unit w.draws, rfl, rfl, rfl, rfl⟩

/-- R158. -/
theorem ruleResetSkh_apply (sr : F64) (w : Work Skh) :
    ruleResetSkh sr w =
      ([], (deriveSkh { w with regs := { w.regs with sr := sr, s1 := fZero, s2 := fZero, init := true } }).2) := rfl

/-- R159. -/
theorem ruleSetpSkh_apply (fc res : F64) (w : Work Skh) :
    ruleSetpSkh fc res w =
      let v := { w with regs := { w.regs with fc := fc, res := res } }
      ([], if w.regs.init then (deriveSkh v).2 else v) := setp_apply _ _ _ w

/-- R161: S1 and S2 only. -/
theorem ruleProcSkh_settings (x : F64) (w : Work Skh) : Shows Skh.settings w.regs (ruleProcSkh x w).2 := by
  simp only [ruleProcSkh, calc_bind, calc_pure, regs_apply, fmul_apply, fsub_apply, fdiv_apply]
  refine .out (.stage (.stage ?_ ?_ _ _ _) ?_ _ _ _) _
  · exact ⟨rfl⟩
  all_goals exact fun _ _ => rfl

end Filters

section Envelope

theorem envOut_init (st : EnvState) (w : Work Env) : (envOut st w).2.regs.init = w.regs.init := by
  cases st <;> rfl

theorem envNext_init (st : EnvState) (o : F64) (w : Work Env) : (envNext st o w).2.regs.init = w.regs.init := by
  cases st with
  | idle => rw [envNext_idle_apply]; split <;> rfl
  | attack =>
    rw [envNext_attack_apply]
    dsimp only
    split
    · split <;> rfl
    · rfl
  | decay =>
    rw [envNext_decay_apply]
    dsimp only
    split
    · split <;> rfl
    · rfl
  | sustain => rw [envNext_sustain_apply]; split <;> rfl
  | release =>
    rw [envNext_release_apply]
    split
    · rfl
    · split <;> rfl

theorem ruleRendEnv_init (w : Work Env) : (ruleRendEnv w).2.regs.init = w.regs.init := by
  rw [ruleRendEnv_apply]
  exact (envNext_init _ _ _).trans (envOut_init _ w)

end Envelope

section Oscillators

/-- All registers of OSN but the state-class ones (R33, R43). -/
def Osn.settings (u : Osn) : Osn := { u with ph := pz, tph := pz }

/-- The derived register of OSN follows FREQ and SR (R191, R192). -/
def Osn.Derived (u : Osn) : Prop := ∃ nan, F64.isNaN nan = true ∧ u.inc = F64.div nan u.freq u.sr

theorem deriveInc_derived (w : Work Osn) : (deriveInc w).2.regs.Derived := ⟨_, nanAt_isNaN _ _, rfl⟩

/-- R193: PH and TPH only. -/
theorem osnSetPhase_settings (w : Work Osn) : Shows Osn.settings w.regs (osnSetPhase w).2 := by
  rw [osnSetPhase_apply]
  exact ⟨rfl⟩

/-- R191: but for the phases, the registers are those of an initialised unit that has derived INC. -/
theorem ruleResetOsn_settings (sr : F64) (w : Work Osn) :
    Shows Osn.settings (deriveInc { w with regs := { w.regs with sr := sr, init := true } }).2.regs
      (ruleResetOsn sr w).2 := ⟨(osnSetPhase_settings _).regs_eq⟩

/-- R192. -/
theorem ruleSetpOsn_apply (freq pw phs : F64) (w : Work Osn) :
    ruleSetpOsn freq pw phs w =
      let v := { w with regs := { w.regs with freq := freq, pw := pw, phs := phs } }
      ([], if w.regs.init then (deriveInc v).2 else v) := setp_apply _ _ _ w

theorem wrapOnce_shows {β : Type} {f : Osn → β} {u : Osn} {w : Work Osn} (h : Shows f u w) (p : F64) :
    Shows f u (wrapOnce p w).2 := by
  rw [wrapOnce_apply]
  split
  · exact ⟨h.regs_eq⟩
  · exact h

/-- R194: PH and TPH only. -/
theorem ruleRendOsn_settings (w : Work Osn) : Shows Osn.settings w.regs (ruleRendOsn w).2 := by
  simp only [ruleRendOsn, calc_bind, calc_pure, regs_apply, fadd_apply, fsub_apply, fmul_apply, uni2bi]
  refine .out (.out (.out (.wr (wrapOnce_shows (.tick (.wr (wrapOnce_shows (.tick ?_) _) ?_ _)) _) ?_ _) _) _) _
  · exact ⟨rfl⟩
  all_goals exact fun _ _ => rfl

theorem osaSetPhase_init (w : Work Osa) : (osaSetPhase w).2.regs.init = w.regs.init := by
  rw [osaSetPhase_apply]

theorem deriveOsa_init (w : Work Osa) : (deriveOsa w).2.regs.init = w.regs.init := rfl

/-- R200: what the rule does with the parameters; it derives only in an initialised unit. -/
theorem ruleSetpOsa_apply (freq pw phs : F64) (w : Work Osa) :
    ruleSetpOsa freq pw phs w =
      let v := { w with regs := { w.regs with freq := freq, pw := pw, phs := phs } }
      ([], if w.regs.init && (F64.ne freq w.regs.freq || F64.ne pw w.regs.pw) then (deriveOsa v).2 else v) := by
  cases hc : w.regs.init && (F64.ne freq w.regs.freq || F64.ne pw w.regs.pw)
  · simp only [ruleSetpOsa, calc_bind, regs_apply, plain_apply, hc, Bool.false_eq_true, ↓reduceIte]
    rfl
  · simp only [ruleSetpOsa, calc_bind, regs_apply, plain_apply, hc, ↓reduceIte]
    rfl

theorem osaSawPulse_init (w : Work Osa) : (osaSawPulse w).2.regs.init = w.regs.init := by
  rw [osaSawPulse_apply]
  dsimp only
  split
  · rfl
  · split <;> rfl

theorem osaTri_init (w : Work Osa) : (osaTri w).2.regs.init = w.regs.init := by
  rw [osaTri_apply]
  dsimp only
  split
  · split <;> rfl
  · split <;> rfl

theorem ruleRendOsa_init (w : Work Osa) : Shows Osa.init w.regs (ruleRendOsa w).2 := by
  simp only [ruleRendOsa, calc_bind, calc_pure, regs_apply, fsub_apply]
  refine .out (.tick (.out (.tick (.out ?_ _)) _)) _
  exact ⟨(osaTri_init _).trans (osaSawPulse_init w)⟩

end Oscillators

section UnitRules

/-! The rules that commands run on each unit. The Bool says that the rule is the unit's `RESET`; a rule that needs
INIT = 1 says so of the registers `u` it runs on. Each unit has three facts: INIT afterwards (R47), the power-on values
before the first `RESET` (R53), and the derived registers (R51). -/

/-- The rules of BQ (R111 to R117). -/
inductive BqRule (u : Bq) : Bool → Calc Bq (List Word64) → Prop
  | reset (sr : F64) : BqRule u true (ruleResetBq sr)
  | clr : BqRule u false ruleClrBq
  | setp (fc : F64) : BqRule u false (ruleSetpBq fc)
  | setform (f : Form) : BqRule u false (ruleSetformBq f)
  | ldcoef (a0 a1 a2 b1 b2 : F64) : BqRule u false (ruleLdcoefBq a0 a1 a2 b1 b2)
  | proc (x : F64) (hinit : u.init = true) : BqRule u false (ruleProcBq x)

/-- The rules of ZLP and ZHP (R133 to R138). -/
inductive ZdfRule (kind : StageKind) (u : Zdf) : Bool → Calc Zdf (List Word64) → Prop
  | reset (sr : F64) : ZdfRule kind u true (ruleResetZdf kind sr)
  | setp (fc : F64) : ZdfRule kind u false (ruleSetpZdf kind fc)
  | proc (x : F64) (hinit : u.init = true) : ZdfRule kind u false (ruleProcZdf kind x)

/-- The rules of LLP and LHP (R147 to R153). -/
inductive LadderRule (kind : StageKind) (u : Ladder) : Bool → Calc Ladder (List Word64) → Prop
  | reset (sr : F64) : LadderRule kind u true (ruleResetLad kind sr)
  | setp (fc res : F64) : LadderRule kind u false (ruleSetpLad kind fc res)
  | proc (x : F64) (hinit : u.init = true) : LadderRule kind u false (ruleProcLad kind x)

/-- The rules of SKH (R158 to R161). -/
inductive SkhRule (u : Skh) : Bool → Calc Skh (List Word64) → Prop
  | reset (sr : F64) : SkhRule u true (ruleResetSkh sr)
  | setp (fc res : F64) : SkhRule u false (ruleSetpSkh fc res)
  | proc (x : F64) (hinit : u.init = true) : SkhRule u false (ruleProcSkh x)

/-- The rules of ENV (R171 to R174). -/
inductive EnvRule (u : Env) : Bool → Calc Env (List Word64) → Prop
  | reset (sr : F64) : EnvRule u true (ruleResetEnv sr)
  | setp (att dec sus rel : F64) : EnvRule u false (ruleSetpEnv att dec sus rel)
  | gate (b : Bool) : EnvRule u false (ruleGateEnv b)
  | rend (hinit : u.init = true) : EnvRule u false ruleRendEnv

/-- The rules of OSN (R191 to R194). -/
inductive OsnRule (u : Osn) : Bool → Calc Osn (List Word64) → Prop
  | reset (sr : F64) : OsnRule u true (ruleResetOsn sr)
  | setp (freq pw phs : F64) : OsnRule u false (ruleSetpOsn freq pw phs)
  | retrig (hinit : u.init = true) : OsnRule u false ruleRetrigOsn
  | rend (hinit : u.init = true) : OsnRule u false ruleRendOsn

/-- The rules of OSA (R200 to R206). -/
inductive OsaRule (u : Osa) : Bool → Calc Osa (List Word64) → Prop
  | reset (sr : F64) : OsaRule u true (ruleResetOsa sr)
  | setp (freq pw phs : F64) : OsaRule u false (ruleSetpOsa freq pw phs)
  | retrig (hinit : u.init = true) : OsaRule u false ruleRetrigOsa
  | rend (hinit : u.init = true) : OsaRule u false ruleRendOsa

/-- BQ holds its power-on values before its first `RESET`, but for the parameter, FORM, ZV and the coefficients, which
`LDCOEF.BQ` can load (R53). -/
def Bq.Untouched (u : Bq) : Prop := u.init = false → [u.sr, u.z0, u.z1, u.z2, u.z3] = List.replicate 5 pz

/-- ZLP or ZHP holds its power-on values but for the parameter before its first `RESET` (R53). -/
def Zdf.Untouched (u : Zdf) : Prop := u.init = false → u = { zdfReset with fc := u.fc }

/-- LLP or LHP holds its power-on values but for the parameters before its first `RESET` (R53). -/
def Ladder.Untouched (u : Ladder) : Prop := u.init = false → u = { ladderReset with fc := u.fc, res := u.res }

/-- SKH holds its power-on values but for the parameters before its first `RESET` (R53). -/
def Skh.Untouched (u : Skh) : Prop := u.init = false → u = { skhReset with fc := u.fc, res := u.res }

/-- ENV holds its power-on values but for the parameters and GATE before its first `RESET` (R53). -/
def Env.Untouched (u : Env) : Prop := u.init = false →
  u = { envReset with att := u.att, dec := u.dec, sus := u.sus, rel := u.rel, gate := u.gate }

/-- OSN holds its power-on values but for the parameters before its first `RESET` (R53). -/
def Osn.Untouched (u : Osn) : Prop := u.init = false → u = { osnReset with freq := u.freq, pw := u.pw, phs := u.phs }

/-- OSA holds its power-on values but for the parameters before its first `RESET` (R53). -/
def Osa.Untouched (u : Osa) : Prop := u.init = false → u = { osaReset with freq := u.freq, pw := u.pw, phs := u.phs }

variable {kind : StageKind} {r : Bool}

section Bq

variable {c : Calc Bq (List Word64)} {w : Work Bq}

theorem BqRule.init (h : BqRule w.regs r c) : (c w).2.regs.init = (w.regs.init || r) := by
  cases h with
  | reset sr => exact (Bool.or_true _).symm
  | clr | ldcoef => exact (Bool.or_false _).symm
  | setp fc => rw [ruleSetpBq_frame, Bool.or_false]
  | setform f => rw [ruleSetformBq_frame, Bool.or_false]
  | proc x => rw [ruleProcBq_init, Bool.or_false]

/-- What runs on BQ before its first `RESET` writes no SR and at most zeros to the histories. -/
theorem BqRule.untouched (h : BqRule w.regs r c) (hu : w.regs.Untouched) : (c w).2.regs.Untouched := by
  intro hi
  obtain ⟨hold, hreset⟩ := Bool.or_eq_false_iff.1 (h.init.symm.trans hi)
  have hregs := hu hold
  cases h with
  | reset sr => cases hreset
  | clr =>
    simp only [List.replicate, List.cons.injEq] at hregs
    obtain ⟨hsr, -⟩ := hregs
    exact congrArg (· :: List.replicate 4 pz) hsr
  | setp fc => rw [ruleSetpBq_frame]; exact hregs
  | setform f => rw [ruleSetformBq_frame]; exact hregs
  | ldcoef => exact hregs
  | proc x hinit => simp [hold] at hinit

end Bq

section Zdf

variable {c : Calc Zdf (List Word64)} {w : Work Zdf}

theorem ZdfRule.init (h : ZdfRule kind w.regs r c) : (c w).2.regs.init = (w.regs.init || r) := by
  cases h with
  | reset sr => rw [ruleResetZdf_apply]; exact (deriveZdf_init kind _).trans (Bool.or_true _).symm
  | setp fc =>
    rw [ruleSetpZdf_apply, Bool.or_false]
    dsimp only
    split
    · exact deriveZdf_init kind _
    · rfl
  | proc x => exact (congrArg Zdf.init (ruleProcZdf_settings kind x w).regs_eq).trans (Bool.or_false _).symm

theorem ZdfRule.untouched (h : ZdfRule kind w.regs r c) (hu : w.regs.Untouched) : (c w).2.regs.Untouched := by
  intro hi
  obtain ⟨hold, hreset⟩ := Bool.or_eq_false_iff.1 (h.init.symm.trans hi)
  cases h with
  | reset sr => cases hreset
  | setp fc => rw [ruleSetpZdf_apply, hold, hu hold]; rfl
  | proc x hinit => simp [hold] at hinit

/-- A `RESET` and an initialised `SETP` derive the registers anew, and `PROC` writes neither them nor what they derive
from. -/
theorem ZdfRule.derived (h : ZdfRule kind w.regs r c) (hd : w.regs.init = true → w.regs.Derived kind)
    (hi : (c w).2.regs.init = true) : (c w).2.regs.Derived kind := by
  cases h with
  | reset sr => rw [ruleResetZdf_apply]; exact deriveZdf_derived kind _
  | setp fc =>
    have hold : w.regs.init = true := by simpa [(ZdfRule.setp fc).init] using hi
    rw [ruleSetpZdf_apply, hold]
    exact deriveZdf_derived kind _
  | proc x hinit => exact (ruleProcZdf_settings kind x w).transfer (fun _ => Iff.rfl) (hd hinit)

end Zdf

section Ladder

variable {c : Calc Ladder (List Word64)} {w : Work Ladder}

theorem LadderRule.init (h : LadderRule kind w.regs r c) : (c w).2.regs.init = (w.regs.init || r) := by
  cases h with
  | reset sr => rw [ruleResetLad_apply]; exact (deriveLad_init kind _).trans (Bool.or_true _).symm
  | setp fc res =>
    rw [ruleSetpLad_apply, Bool.or_false]
    dsimp only
    split
    · exact deriveLad_init kind _
    · rfl
  | proc x => exact (congrArg Ladder.init (ruleProcLad_settings kind x w).regs_eq).trans (Bool.or_false _).symm

theorem LadderRule.untouched (h : LadderRule kind w.regs r c) (hu : w.regs.Untouched) : (c w).2.regs.Untouched := by
  intro hi
  obtain ⟨hold, hreset⟩ := Bool.or_eq_false_iff.1 (h.init.symm.trans hi)
  cases h with
  | reset sr => cases hreset
  | setp fc res => rw [ruleSetpLad_apply, hold, hu hold]; rfl
  | proc x hinit => simp [hold] at hinit

theorem LadderRule.derived (h : LadderRule kind w.regs r c) (hd : w.regs.init = true → w.regs.Derived kind)
    (hi : (c w).2.regs.init = true) : (c w).2.regs.Derived kind := by
  cases h with
  | reset sr => rw [ruleResetLad_apply]; exact deriveLad_derived kind _
  | setp fc res =>
    have hold : w.regs.init = true := by simpa [(LadderRule.setp fc res).init] using hi
    rw [ruleSetpLad_apply, hold]
    exact deriveLad_derived kind _
  | proc x hinit => exact (ruleProcLad_settings kind x w).transfer (fun _ => Iff.rfl) (hd hinit)

end Ladder

section Skh

variable {c : Calc Skh (List Word64)} {w : Work Skh}

theorem SkhRule.init (h : SkhRule w.regs r c) : (c w).2.regs.init = (w.regs.init || r) := by
  cases h with
  | reset sr => rw [ruleResetSkh_apply]; exact (deriveSkh_init _).trans (Bool.or_true _).symm
  | setp fc res =>
    rw [ruleSetpSkh_apply, Bool.or_false]
    dsimp only
    split
    · exact deriveSkh_init _
    · rfl
  | proc x => exact (congrArg Skh.init (ruleProcSkh_settings x w).regs_eq).trans (Bool.or_false _).symm

theorem SkhRule.untouched (h : SkhRule w.regs r c) (hu : w.regs.Untouched) : (c w).2.regs.Untouched := by
  intro hi
  obtain ⟨hold, hreset⟩ := Bool.or_eq_false_iff.1 (h.init.symm.trans hi)
  cases h with
  | reset sr => cases hreset
  | setp fc res => rw [ruleSetpSkh_apply, hold, hu hold]; rfl
  | proc x hinit => simp [hold] at hinit

theorem SkhRule.coefs (h : SkhRule w.regs r c) (hd : w.regs.init = true → SkhCoefs w.regs)
    (hi : (c w).2.regs.init = true) : SkhCoefs (c w).2.regs := by
  cases h with
  | reset sr => rw [ruleResetSkh_apply]; exact deriveSkh_coefs _
  | setp fc res =>
    have hold : w.regs.init = true := by simpa [(SkhRule.setp fc res).init] using hi
    rw [ruleSetpSkh_apply, hold]
    exact deriveSkh_coefs _
  | proc x hinit => exact (ruleProcSkh_settings x w).transfer (fun _ => Iff.rfl) (hd hinit)

end Skh

section Env

variable {c : Calc Env (List Word64)} {w : Work Env}

theorem EnvRule.init (h : EnvRule w.regs r c) : (c w).2.regs.init = (w.regs.init || r) := by
  cases h with
  | reset sr => exact (Bool.or_true _).symm
  | setp | gate => exact (Bool.or_false _).symm
  | rend => rw [ruleRendEnv_init, Bool.or_false]

theorem EnvRule.untouched (h : EnvRule w.regs r c) (hu : w.regs.Untouched) : (c w).2.regs.Untouched := by
  intro hi
  obtain ⟨hold, hreset⟩ := Bool.or_eq_false_iff.1 (h.init.symm.trans hi)
  cases h with
  | reset sr => cases hreset
  | setp att dec sus rel =>
    exact congrArg (fun u : Env => { u with att := att, dec := dec, sus := sus, rel := rel }) (hu hold)
  | gate b => exact congrArg (fun u : Env => { u with gate := b }) (hu hold)
  | rend hinit => simp [hold] at hinit

end Env

section Osn

variable {c : Calc Osn (List Word64)} {w : Work Osn}

theorem OsnRule.init (h : OsnRule w.regs r c) : (c w).2.regs.init = (w.regs.init || r) := by
  cases h with
  | reset sr => exact (congrArg Osn.init (ruleResetOsn_settings sr w).regs_eq).trans (Bool.or_true _).symm
  | setp freq pw phs =>
    rw [ruleSetpOsn_apply, Bool.or_false]
    dsimp only
    split
    · rfl
    · rfl
  | retrig => exact (congrArg Osn.init (osnSetPhase_settings w).regs_eq).trans (Bool.or_false _).symm
  | rend => exact (congrArg Osn.init (ruleRendOsn_settings w).regs_eq).trans (Bool.or_false _).symm

theorem OsnRule.untouched (h : OsnRule w.regs r c) (hu : w.regs.Untouched) : (c w).2.regs.Untouched := by
  intro hi
  obtain ⟨hold, hreset⟩ := Bool.or_eq_false_iff.1 (h.init.symm.trans hi)
  cases h with
  | reset sr => cases hreset
  | setp freq pw phs => rw [ruleSetpOsn_apply, hold, hu hold]; rfl
  | retrig hinit | rend hinit => simp [hold] at hinit

theorem OsnRule.derived (h : OsnRule w.regs r c) (hd : w.regs.init = true → w.regs.Derived)
    (hi : (c w).2.regs.init = true) : (c w).2.regs.Derived := by
  cases h with
  | reset sr => exact (ruleResetOsn_settings sr w).transfer (fun _ => Iff.rfl) (deriveInc_derived _)
  | setp freq pw phs =>
    have hold : w.regs.init = true := by simpa [(OsnRule.setp freq pw phs).init] using hi
    rw [ruleSetpOsn_apply, hold]
    exact deriveInc_derived _
  | retrig hinit => exact (osnSetPhase_settings w).transfer (fun _ => Iff.rfl) (hd hinit)
  | rend hinit => exact (ruleRendOsn_settings w).transfer (fun _ => Iff.rfl) (hd hinit)

end Osn

section Osa

variable {c : Calc Osa (List Word64)} {w : Work Osa}

theorem OsaRule.init (h : OsaRule w.regs r c) : (c w).2.regs.init = (w.regs.init || r) := by
  cases h with
  | reset sr => exact ((osaSetPhase_init _).trans (deriveOsa_init _)).trans (Bool.or_true _).symm
  | setp freq pw phs =>
    rw [ruleSetpOsa_apply, Bool.or_false]
    dsimp only
    split
    · exact deriveOsa_init _
    · rfl
  | retrig => exact (osaSetPhase_init w).trans (Bool.or_false _).symm
  | rend => exact (ruleRendOsa_init w).regs_eq.trans (Bool.or_false _).symm

theorem OsaRule.untouched (h : OsaRule w.regs r c) (hu : w.regs.Untouched) : (c w).2.regs.Untouched := by
  intro hi
  obtain ⟨hold, hreset⟩ := Bool.or_eq_false_iff.1 (h.init.symm.trans hi)
  cases h with
  | reset sr => cases hreset
  | setp freq pw phs => rw [ruleSetpOsa_apply, hold, hu hold]; rfl
  | retrig hinit | rend hinit => simp [hold] at hinit

end Osa

end UnitRules

section Effects

variable {s t : State} {o : Option UnitId}

/-- The unit whose INIT a rule of `u` sets. -/
def resetting (r : Bool) (u : UnitId) : Option UnitId := if r then some u else none

/-- What a command can do to the state: it answers, is refused, or runs a rule on one unit. `Effect s o t` says that `t`
can come of `s`, by a `RESET` of the unit `o` if there is one. -/
inductive Effect (s : State) : Option UnitId → State → Prop
  | respond (data : List Word64) : Effect s none (s.respond data)
  | refuse (code : Status) : Effect s none (s.refuse code)
  | bq {r c} (h : BqRule s.bq r c) : Effect s (resetting r .bq) (s.run slotBq c)
  | zlp {r c} (h : ZdfRule .lp s.zlp r c) : Effect s (resetting r .zlp) (s.run slotZlp c)
  | zhp {r c} (h : ZdfRule .hp s.zhp r c) : Effect s (resetting r .zhp) (s.run slotZhp c)
  | llp {r c} (h : LadderRule .lp s.llp r c) : Effect s (resetting r .llp) (s.run slotLlp c)
  | lhp {r c} (h : LadderRule .hp s.lhp r c) : Effect s (resetting r .lhp) (s.run slotLhp c)
  | skh {r c} (h : SkhRule s.skh r c) : Effect s (resetting r .skh) (s.run slotSkh c)
  | env {r c} (h : EnvRule s.env r c) : Effect s (resetting r .env) (s.run slotEnv c)
  | osn {r c} (h : OsnRule s.osn r c) : Effect s (resetting r .osn) (s.run slotOsn c)
  | osa {r c} (h : OsaRule s.osa r c) : Effect s (resetting r .osa) (s.run slotOsa c)

theorem Effect.readBack (s : State) (words : List Word64) (idx : BitVec 8) :
    Effect s none (s.readBack words idx) := by
  rcases readBack_cases words idx s with ⟨w, -, hs⟩ | ⟨-, hs⟩
  · rw [hs]; exact .respond _
  · rw [hs]; exact .refuse _

theorem Effect.runInit {U : Type} {k : Slot U} {init : Bool} {c : Calc U (List Word64)}
    (h : init = true → Effect s none (s.run k c)) : Effect s none (s.runInit k init c) := by
  rcases runInit_cases k init c s with ⟨hi, hs⟩ | ⟨-, hs⟩
  · rw [hs]; exact h hi
  · rw [hs]; exact .refuse _

/-- `PROC.BQ` checks INIT and then ZV (R117). -/
theorem execProcBq_effect {x : F64} (h : execProcBq x s = .next t) : Effect s none t := by
  unfold execProcBq at h
  split at h
  · cases h; exact .refuse _
  next hinit =>
    split at h
    · cases h; exact .refuse _
    · cases h; exact .bq (.proc x (by simpa using hinit))

/-- Everything an instruction can do. -/
theorem exec_effect {i : Instr} (h : exec i s = .next t) : Effect s (resetOf i) t := by
  cases i with
  | getpBq | getpZlp | getpZhp | getpLlp | getpLhp | getpSkh | getpEnv | getpOsn | getpOsa | rdflt =>
    cases h; exact .respond _
  | getsBq idx | getsZlp idx | getsZhp idx | getsLlp idx | getsLhp idx | getsSkh idx | getsEnv idx | getsOsn idx
  | getsOsa idx => cases h; exact .readBack s _ idx
  | resetBq sr => cases h; exact .bq (.reset sr)
  | resetZlp sr => cases h; exact .zlp (.reset sr)
  | resetZhp sr => cases h; exact .zhp (.reset sr)
  | resetLlp sr => cases h; exact .llp (.reset sr)
  | resetLhp sr => cases h; exact .lhp (.reset sr)
  | resetSkh sr => cases h; exact .skh (.reset sr)
  | resetEnv sr => cases h; exact .env (.reset sr)
  | resetOsn sr => cases h; exact .osn (.reset sr)
  | resetOsa sr => cases h; exact .osa (.reset sr)
  | clrBq => cases h; exact .bq .clr
  | setpBq fc => cases h; exact .bq (.setp fc)
  | setpZlp fc => cases h; exact .zlp (.setp fc)
  | setpZhp fc => cases h; exact .zhp (.setp fc)
  | setpLlp fc res => cases h; exact .llp (.setp fc res)
  | setpLhp fc res => cases h; exact .lhp (.setp fc res)
  | setpSkh fc res => cases h; exact .skh (.setp fc res)
  | setpEnv att dec sus rel => cases h; exact .env (.setp att dec sus rel)
  | setpOsn freq pw phs => cases h; exact .osn (.setp freq pw phs)
  | setpOsa freq pw phs => cases h; exact .osa (.setp freq pw phs)
  | procBq x => exact execProcBq_effect h
  | procZlp x => cases h; exact .runInit fun hi => .zlp (.proc x hi)
  | procZhp x => cases h; exact .runInit fun hi => .zhp (.proc x hi)
  | procLlp x => cases h; exact .runInit fun hi => .llp (.proc x hi)
  | procLhp x => cases h; exact .runInit fun hi => .lhp (.proc x hi)
  | procSkh x => cases h; exact .runInit fun hi => .skh (.proc x hi)
  | rendEnv => cases h; exact .runInit fun hi => .env (.rend hi)
  | rendOsn => cases h; exact .runInit fun hi => .osn (.rend hi)
  | rendOsa => cases h; exact .runInit fun hi => .osa (.rend hi)
  | gateEnv b => cases h; exact .env (.gate b)
  | retrigOsn => cases h; exact .runInit fun hi => .osn (.retrig hi)
  | retrigOsa => cases h; exact .runInit fun hi => .osa (.retrig hi)
  | setformBq f => cases h; exact .bq (.setform f)
  | ldcoefBq a0 a1 a2 b1 b2 => cases h; exact .bq (.ldcoef a0 a1 a2 b1 b2)

/-- Everything a step can do: it waits, or a command taken from the port has its effect. -/
theorem step_effect (h : step s = .next t) :
    t = s ∨ ∃ a o, a = { s with audio := a.audio, control := a.control, merges := a.merges } ∧ Effect a o t := by
  rcases step_cases h with ⟨-, rfl⟩ | ⟨f, a, i, ha, -, hexec⟩ | ⟨f, a, e, ha, -, -, rfl⟩
  · exact .inl rfl
  · exact .inr ⟨a, _, (accept_some ha).2, exec_effect hexec⟩
  · exact .inr ⟨a, _, (accept_some ha).2, .refuse _⟩

/-- A command only adds bits to FLT (R46). -/
theorem Effect.flt_eq_or (h : Effect s o t) : ∃ f, t.flt = s.flt ||| f := by
  cases h with
  | respond => exact ⟨0, (or_none _).symm⟩
  | refuse | bq | zlp | zhp | llp | lhp | skh | env | osn | osa => exact ⟨_, rfl⟩

/-- `init` is the INIT flag of the unit that the slot holds, and putting a unit back changes no other one's. -/
structure SlotInit {U : Type} (k : Slot U) (init : U → Bool) : Prop where
  init_get : ∀ s : State, s.init k.unit = init (k.get s)
  init_put : ∀ v s u, (k.put v s).init u = if u = k.unit then init v else s.init u

/-- If a rule's INIT afterwards is as R47 says, so is that of every unit. -/
theorem run_init {U : Type} {k : Slot U} {init : U → Bool} {c : Calc U (List Word64)} {r : Bool}
    (hk : SlotInit k init) (hc : ∀ d f, init (c ⟨k.unit, k.get s, d, f⟩).2.regs = (init (k.get s) || r))
    (u : UnitId) :
    (s.run k c).init u = (s.init u || decide (resetting r k.unit = some u)) := by
  have hput : (s.run k c).init u = (k.put (c ⟨k.unit, k.get s, s.draws.get k.unit, 0⟩).2.regs s).init u := by
    cases u <;> rfl
  rw [hput, hk.init_put, hc]
  by_cases hu : u = k.unit
  · subst hu
    rw [if_pos rfl, hk.init_get]
    cases r <;> simp [resetting]
  · rw [if_neg hu]
    cases r <;> simp [resetting, Ne.symm hu]

end Effects

section Invariants

variable {s t : State} {o : Option UnitId}

theorem slotBq_init : SlotInit slotBq Bq.init := ⟨fun _ => rfl, fun _ _ u => by cases u <;> rfl⟩
theorem slotZlp_init : SlotInit slotZlp Zdf.init := ⟨fun _ => rfl, fun _ _ u => by cases u <;> rfl⟩
theorem slotZhp_init : SlotInit slotZhp Zdf.init := ⟨fun _ => rfl, fun _ _ u => by cases u <;> rfl⟩
theorem slotLlp_init : SlotInit slotLlp Ladder.init := ⟨fun _ => rfl, fun _ _ u => by cases u <;> rfl⟩
theorem slotLhp_init : SlotInit slotLhp Ladder.init := ⟨fun _ => rfl, fun _ _ u => by cases u <;> rfl⟩
theorem slotSkh_init : SlotInit slotSkh Skh.init := ⟨fun _ => rfl, fun _ _ u => by cases u <;> rfl⟩
theorem slotEnv_init : SlotInit slotEnv Env.init := ⟨fun _ => rfl, fun _ _ u => by cases u <;> rfl⟩
theorem slotOsn_init : SlotInit slotOsn Osn.init := ⟨fun _ => rfl, fun _ _ u => by cases u <;> rfl⟩
theorem slotOsa_init : SlotInit slotOsa Osa.init := ⟨fun _ => rfl, fun _ _ u => by cases u <;> rfl⟩

/-- A command sets the INIT of the unit it resets and changes no other INIT (R47). -/
theorem Effect.init (h : Effect s o t) (u : UnitId) : t.init u = (s.init u || decide (o = some u)) := by
  cases h with
  | respond | refuse => exact (Bool.or_false _).symm
  | bq h => exact run_init slotBq_init (fun _ _ => h.init) u
  | zlp h => exact run_init slotZlp_init (fun _ _ => h.init) u
  | zhp h => exact run_init slotZhp_init (fun _ _ => h.init) u
  | llp h => exact run_init slotLlp_init (fun _ _ => h.init) u
  | lhp h => exact run_init slotLhp_init (fun _ _ => h.init) u
  | skh h => exact run_init slotSkh_init (fun _ _ => h.init) u
  | env h => exact run_init slotEnv_init (fun _ _ => h.init) u
  | osn h => exact run_init slotOsn_init (fun _ _ => h.init) u
  | osa h => exact run_init slotOsa_init (fun _ _ => h.init) u

/-- `State.untouched` unit by unit. -/
structure State.UntouchedUnits (s : State) : Prop where
  bq : s.bq.Untouched
  zlp : s.zlp.Untouched
  zhp : s.zhp.Untouched
  llp : s.llp.Untouched
  lhp : s.lhp.Untouched
  skh : s.skh.Untouched
  env : s.env.Untouched
  osn : s.osn.Untouched
  osa : s.osa.Untouched

theorem untouched_iff (s : State) : s.untouched = true ↔ s.UntouchedUnits := by
  have clause (b : Bool) (p : Prop) [Decidable p] : (b || decide p) = true ↔ (b = false → p) := by
    cases b <;> simp
  simp only [State.untouched, Bool.and_eq_true, clause]
  constructor
  · rintro ⟨⟨⟨⟨⟨⟨⟨⟨hbq, hzlp⟩, hzhp⟩, hllp⟩, hlhp⟩, hskh⟩, henv⟩, hosn⟩, hosa⟩
    exact ⟨hbq, hzlp, hzhp, hllp, hlhp, hskh, henv, hosn, hosa⟩
  · rintro ⟨hbq, hzlp, hzhp, hllp, hlhp, hskh, henv, hosn, hosa⟩
    exact ⟨⟨⟨⟨⟨⟨⟨⟨hbq, hzlp⟩, hzhp⟩, hllp⟩, hlhp⟩, hskh⟩, henv⟩, hosn⟩, hosa⟩

/-- A command changes one unit, and a rule keeps what R53 says of its unit. -/
theorem Effect.untouched (h : Effect s o t) (hs : s.UntouchedUnits) : t.UntouchedUnits := by
  cases h with
  | respond | refuse => exact { hs with }
  | bq h => exact { hs with bq := h.untouched (w := ⟨_, _, _, _⟩) hs.bq }
  | zlp h => exact { hs with zlp := h.untouched (w := ⟨_, _, _, _⟩) hs.zlp }
  | zhp h => exact { hs with zhp := h.untouched (w := ⟨_, _, _, _⟩) hs.zhp }
  | llp h => exact { hs with llp := h.untouched (w := ⟨_, _, _, _⟩) hs.llp }
  | lhp h => exact { hs with lhp := h.untouched (w := ⟨_, _, _, _⟩) hs.lhp }
  | skh h => exact { hs with skh := h.untouched (w := ⟨_, _, _, _⟩) hs.skh }
  | env h => exact { hs with env := h.untouched (w := ⟨_, _, _, _⟩) hs.env }
  | osn h => exact { hs with osn := h.untouched (w := ⟨_, _, _, _⟩) hs.osn }
  | osa h => exact { hs with osa := h.untouched (w := ⟨_, _, _, _⟩) hs.osa }

/-- A command changes one unit, and a rule keeps its derived registers the function of the parameters (R51). -/
theorem Effect.cached (h : Effect s o t) (hs : s.cached) : t.cached := by
  obtain ⟨hzlp, hzhp, hllp, hlhp, hskh, hosn⟩ := hs
  cases h with
  | respond | refuse | bq | env | osa => exact ⟨hzlp, hzhp, hllp, hlhp, hskh, hosn⟩
  | zlp h => exact ⟨h.derived (w := ⟨_, _, _, _⟩) hzlp, hzhp, hllp, hlhp, hskh, hosn⟩
  | zhp h => exact ⟨hzlp, h.derived (w := ⟨_, _, _, _⟩) hzhp, hllp, hlhp, hskh, hosn⟩
  | llp h => exact ⟨hzlp, hzhp, h.derived (w := ⟨_, _, _, _⟩) hllp, hlhp, hskh, hosn⟩
  | lhp h => exact ⟨hzlp, hzhp, hllp, h.derived (w := ⟨_, _, _, _⟩) hlhp, hskh, hosn⟩
  | skh h => exact ⟨hzlp, hzhp, hllp, hlhp, h.coefs (w := ⟨_, _, _, _⟩) hskh, hosn⟩
  | osn h => exact ⟨hzlp, hzhp, hllp, hlhp, hskh, h.derived (w := ⟨_, _, _, _⟩) hosn⟩

end Invariants

/-- Settles O44: a step that takes a command has that command's effect, which keeps it unit by unit. -/
theorem untouchedUnitsKeepPowerOnValues : Obligations.UntouchedUnitsKeepPowerOnValues := by
  intro s t hs hstep
  rcases step_effect hstep with rfl | ⟨a, o, ha, heffect⟩
  · exact hs
  · have hunits : a.UntouchedUnits := by
      rw [ha]
      exact { (untouched_iff s).1 hs with }
    exact (untouched_iff t).2 (heffect.untouched hunits)

/-- Settles O45: a step that takes a command has that command's effect, which derives the registers anew or leaves them
and what they derive from. -/
theorem coefficientsFollowTheParameters : Obligations.CoefficientsFollowTheParameters := by
  intro s t hs hstep
  rcases step_effect hstep with rfl | ⟨a, o, ha, heffect⟩
  · exact hs
  · have hcached : a.cached := by
      rw [ha]
      exact hs
    exact heffect.cached hcached

/-- Settles O40: a command only adds bits to FLT, and taking it from the port leaves FLT. -/
theorem faultFlagsAreSticky : Obligations.FaultFlagsAreSticky := by
  intro s t hstep k hk
  rcases step_effect hstep with rfl | ⟨a, o, ha, heffect⟩
  · exact hk
  · obtain ⟨f, hf⟩ := heffect.flt_eq_or
    have hflt : a.flt = s.flt := by rw [ha]
    rw [hf, BitVec.getLsbD_or, hflt, hk, Bool.true_or]

/-- Settles O41: by what an instruction can do, the INIT of a unit is set by its `RESET` rule alone. -/
theorem initIsSetByResetOnly : Obligations.InitIsSetByResetOnly := by
  intro i s t u hexec
  exact (exec_effect hexec).init u

end Sys2Proof.Machine
end

section
/-! PROOFS. O6, O7 and O47, the command port. A step is what it accepts, decoded and executed. A command works on what its
unit owns: from that alone it computes what the unit owns afterwards, the FLT bits it sets and its response. What two units
own is apart, so their commands commute. -/

namespace Sys2Proof.Machine

section Port

variable {s t : State} {f : Frame}

/-- The port gives nothing just when no command is pending (R75, R76). -/
theorem accept_eq_none_iff : s.accept = none ↔ s.audio = [] ∧ s.control = [] := by
  refine ⟨accept_none, fun ⟨ha, hc⟩ => ?_⟩
  simp [State.accept, ha, hc]

/-- With no command at the port a step waits (R253; log 6). -/
theorem step_of_accept_none (h : s.accept = none) : step s = .next s := by simp [step, h]

/-- A step executes what the accepted frame decodes to (R75, R238). -/
theorem step_of_decode {i : Instr} (ha : s.accept = some (f, t)) (hd : decode f = .ok i) : step s = exec i t := by
  simp [step, ha, hd]

end Port

/-- Settles O6: by what a step does with an accepted frame that decodes. -/
theorem stepRunsTheDecodedInstruction : Obligations.StepRunsTheDecodedInstruction := by
  intro s t f i ha hd
  exact step_of_decode ha hd

/-- Settles O7: the port is empty just when both lists are, and otherwise gives the head of one of them. -/
theorem portMergesTheTwoContexts : Obligations.PortMergesTheTwoContexts := by
  constructor
  · intro s haudio hcontrol
    exact step_of_accept_none (accept_eq_none_iff.2 ⟨haudio, hcontrol⟩)
  · intro s hpending
    cases ha : s.accept with
    | none =>
      obtain ⟨haudio, hcontrol⟩ := accept_none ha
      simp [haudio, hcontrol] at hpending
    | some taken =>
      obtain ⟨f, t⟩ := taken
      exact ⟨f, t, rfl, accept_some ha⟩

section Ownership

/-- The registers of a unit. -/
def UnitRegs : UnitId → Type
  | .bq => Bq
  | .zlp | .zhp => Zdf
  | .llp | .lhp => Ladder
  | .skh => Skh
  | .env => Env
  | .osn => Osn
  | .osa => Osa

/-- The slot of a unit. -/
def slotOf : (u : UnitId) → Slot (UnitRegs u)
  | .bq => slotBq
  | .zlp => slotZlp
  | .zhp => slotZhp
  | .llp => slotLlp
  | .lhp => slotLhp
  | .skh => slotSkh
  | .env => slotEnv
  | .osn => slotOsn
  | .osa => slotOsa

/-- What a unit owns of the state: its registers and its NaN draw counter. -/
structure Owned (u : UnitId) where
  regs : UnitRegs u
  draws : Nat

/-- What the unit owns now. -/
def State.owned (u : UnitId) (s : State) : Owned u := ⟨(slotOf u).get s, s.draws.get u⟩

/-- What the unit owns replaced. -/
def State.store (u : UnitId) (o : Owned u) (s : State) : State :=
  { (slotOf u).put o.regs s with draws := s.draws.set u o.draws }

/-- FLT bits set and a response given; these two the units share. -/
def State.report (flags : BitVec 4) (r : Response) (s : State) : State :=
  { s with flt := s.flt ||| flags, responses := r :: s.responses }

/-- What a command computes: what its unit owns afterwards, the FLT bits it sets and its response. -/
structure Answer (u : UnitId) where
  owned : Owned u
  flags : BitVec 4
  response : Response

/-- A computed answer put in the state. -/
def State.settle {u : UnitId} (a : Answer u) (s : State) : State := (s.store u a.owned).report a.flags a.response

/-- The answer OK with data, which leaves what the unit owns. -/
def Owned.answered {u : UnitId} (o : Owned u) (data : List Word64) : Answer u := ⟨o, 0, ⟨.ok, data⟩⟩

/-- The answer of a refusal (R232). -/
def Owned.refused {u : UnitId} (o : Owned u) (code : Status) : Answer u := ⟨o, code.flag, ⟨code, []⟩⟩

/-- The answer of a rule (R75, R85). -/
def Owned.computed {u : UnitId} (o : Owned u) (c : Calc (UnitRegs u) (List Word64)) : Answer u :=
  let w := c ⟨u, o.regs, o.draws, 0⟩
  ⟨⟨w.2.regs, w.2.draws⟩, w.2.flags, ⟨.ok, w.1⟩⟩

variable {u v : UnitId}

@[simp] theorem owned_report (u : UnitId) (flags : BitVec 4) (r : Response) (s : State) :
    (s.report flags r).owned u = s.owned u := by cases u <;> rfl

@[simp] theorem store_report (o : Owned u) (flags : BitVec 4) (r : Response) (s : State) :
    (s.report flags r).store u o = (s.store u o).report flags r := by cases u <;> rfl

@[simp] theorem store_owned (u : UnitId) (s : State) : s.store u (s.owned u) = s := by cases u <;> rfl

@[simp] theorem store_responses (o : Owned u) (s : State) : (s.store u o).responses = s.responses := by
  cases u <;> rfl

theorem settle_answered (u : UnitId) (data : List Word64) (s : State) :
    s.settle ((s.owned u).answered data) = s.respond data := by
  simp [State.settle, State.report, State.respond, Owned.answered]

theorem settle_refused (u : UnitId) (code : Status) (s : State) :
    s.settle ((s.owned u).refused code) = s.refuse code := by
  simp [State.settle, State.report, State.refuse, Owned.refused]

theorem settle_computed (c : Calc (UnitRegs u) (List Word64)) (s : State) :
    s.settle ((s.owned u).computed c) = s.run (slotOf u) c := by cases u <;> rfl

/-- No unit owns anything of another. -/
theorem owned_store_of_ne (h : u ≠ v) (o : Owned u) (s : State) : (s.store u o).owned v = s.owned v := by
  cases u <;> cases v <;> try contradiction
  all_goals rfl

/-- What two units own can be stored in either order. -/
theorem store_comm (h : u ≠ v) (o : Owned u) (p : Owned v) (s : State) :
    (s.store u o).store v p = (s.store v p).store u o := by
  cases u <;> cases v <;> try contradiction
  all_goals rfl

theorem owned_settle_of_ne (h : u ≠ v) (a : Answer u) (s : State) : (s.settle a).owned v = s.owned v := by
  rw [State.settle, owned_report, owned_store_of_ne h]

/-- Two reports differ by their order in the list of responses alone. -/
theorem report_report (f g : BitVec 4) (q r : Response) (s : State) :
    (s.report f q).report g r = { (s.report g r).report f q with responses := r :: q :: s.responses } := by
  simp only [State.report, BitVec.or_assoc, BitVec.or_comm f g]

/-- The answers of two units can be put in the state in either order, but for the order of the responses. -/
theorem settle_settle (h : u ≠ v) (a : Answer u) (b : Answer v) (s : State) :
    (s.settle a).settle b = { (s.settle b).settle a with responses := b.response :: a.response :: s.responses } := by
  calc (s.settle a).settle b
      = (((s.store u a.owned).store v b.owned).report a.flags a.response).report b.flags b.response := by
        simp only [State.settle, store_report]
    _ = { (((s.store v b.owned).store u a.owned).report b.flags b.response).report a.flags a.response with
          responses := b.response :: a.response :: s.responses } := by
        rw [report_report, store_comm h]
        simp only [store_responses]
    _ = { (s.settle b).settle a with responses := b.response :: a.response :: s.responses } := by
        simp only [State.settle, store_report]

end Ownership

section Locality

variable {u v : UnitId} {F G : State → State}

/-- `F` computes an answer of the unit from what the unit owns, and does nothing else. -/
def LocalTo (u : UnitId) (F : State → State) : Prop := ∃ f : Owned u → Answer u, ∀ s, F s = s.settle (f (s.owned u))

/-- `Resp(OK, ..)` with data read from the unit. -/
theorem LocalTo.respond (data : UnitRegs u → List Word64) :
    LocalTo u fun s => s.respond (data (s.owned u).regs) :=
  ⟨fun o => o.answered (data o.regs), fun s => (settle_answered u _ s).symm⟩

/-- A refusal changes nothing that a unit owns (R232). -/
theorem LocalTo.refuse (code : Status) : LocalTo u (State.refuse code) :=
  ⟨fun o => o.refused code, fun s => (settle_refused u code s).symm⟩

/-- A rule runs on the unit's registers and draw counter. -/
theorem LocalTo.run (c : Calc (UnitRegs u) (List Word64)) : LocalTo u (State.run (slotOf u) c) :=
  ⟨fun o => o.computed c, fun s => (settle_computed c s).symm⟩

/-- A choice by what the unit owns. -/
theorem LocalTo.ite (p : UnitRegs u → Bool) (hF : LocalTo u F) (hG : LocalTo u G) :
    LocalTo u fun s => if p (s.owned u).regs then F s else G s := by
  obtain ⟨f, hf⟩ := hF
  obtain ⟨g, hg⟩ := hG
  refine ⟨fun o => if p o.regs then f o else g o, fun s => ?_⟩
  by_cases hp : p (s.owned u).regs
  · simp [hp, hf]
  · simp [hp, hg]

/-- The check of INIT (R234). -/
theorem LocalTo.runInit (init : UnitRegs u → Bool) (c : Calc (UnitRegs u) (List Word64)) :
    LocalTo u fun s => s.runInit (slotOf u) (init (s.owned u).regs) c :=
  .ite init (.run c) (.refuse .notInit)

/-- `GETS` reads the unit's registers (R221). -/
theorem LocalTo.readBack (words : UnitRegs u → List Word64) (idx : BitVec 8) :
    LocalTo u fun s => s.readBack (words (s.owned u).regs) idx := by
  refine ⟨fun o => (words o.regs)[idx.toNat]?.elim (o.refused .illegal) fun w => o.answered [w], fun s => ?_⟩
  dsimp only
  rcases readBack_cases (words (s.owned u).regs) idx s with ⟨w, hw, hs⟩ | ⟨hw, hs⟩
  · rw [hs, hw, Option.elim_some, settle_answered]
  · rw [hs, hw, Option.elim_none, settle_refused]

/-- A command is local to the unit it addresses (R30, R79). -/
theorem exec_local {i : Instr} (hu : unitOf i = some u) : ∃ F, LocalTo u F ∧ ∀ s, exec i s = .next (F s) := by
  cases i with
  | rdflt => cases hu
  | resetBq | resetZlp | resetZhp | resetLlp | resetLhp | resetSkh | resetEnv | resetOsn | resetOsa | clrBq
  | setpBq | setpZlp | setpZhp | setpLlp | setpLhp | setpSkh | setpEnv | setpOsn | setpOsa
  | gateEnv | setformBq | ldcoefBq => cases hu; exact ⟨_, .run _, fun _ => rfl⟩
  | procZlp | procZhp => cases hu; exact ⟨_, .runInit Zdf.init _, fun _ => rfl⟩
  | procLlp | procLhp => cases hu; exact ⟨_, .runInit Ladder.init _, fun _ => rfl⟩
  | procSkh => cases hu; exact ⟨_, .runInit Skh.init _, fun _ => rfl⟩
  | rendEnv => cases hu; exact ⟨_, .runInit Env.init _, fun _ => rfl⟩
  | rendOsn | retrigOsn => cases hu; exact ⟨_, .runInit Osn.init _, fun _ => rfl⟩
  | rendOsa | retrigOsa => cases hu; exact ⟨_, .runInit Osa.init _, fun _ => rfl⟩
  | procBq x =>
    cases hu
    exact ⟨_, .ite (fun r : Bq => !r.init) (.refuse .notInit)
      (.ite (fun r : Bq => !r.zv) (.refuse .stateUndef) (.run (u := .bq) (ruleProcBq x))), fun _ => rfl⟩
  | getsBq => cases hu; exact ⟨_, .readBack Bq.words _, fun _ => rfl⟩
  | getsZlp | getsZhp => cases hu; exact ⟨_, .readBack Zdf.words _, fun _ => rfl⟩
  | getsLlp | getsLhp => cases hu; exact ⟨_, .readBack Ladder.words _, fun _ => rfl⟩
  | getsSkh => cases hu; exact ⟨_, .readBack Skh.words _, fun _ => rfl⟩
  | getsEnv => cases hu; exact ⟨_, .readBack Env.words _, fun _ => rfl⟩
  | getsOsn => cases hu; exact ⟨_, .readBack Osn.words _, fun _ => rfl⟩
  | getsOsa => cases hu; exact ⟨_, .readBack Osa.words _, fun _ => rfl⟩
  | getpBq => cases hu; exact ⟨_, .respond fun r : Bq => [bits64 r.fc], fun _ => rfl⟩
  | getpZlp | getpZhp => cases hu; exact ⟨_, .respond fun r : Zdf => [bits64 r.fc], fun _ => rfl⟩
  | getpLlp | getpLhp => cases hu; exact ⟨_, .respond fun r : Ladder => [bits64 r.fc, bits64 r.res], fun _ => rfl⟩
  | getpSkh => cases hu; exact ⟨_, .respond fun r : Skh => [bits64 r.fc, bits64 r.res], fun _ => rfl⟩
  | getpEnv =>
    cases hu
    exact ⟨_, .respond fun r : Env => [bits64 r.att, bits64 r.dec, bits64 r.sus, bits64 r.rel], fun _ => rfl⟩
  | getpOsn =>
    cases hu; exact ⟨_, .respond fun r : Osn => [bits64 r.freq, bits64 r.pw, bits64 r.phs], fun _ => rfl⟩
  | getpOsa =>
    cases hu; exact ⟨_, .respond fun r : Osa => [bits64 r.freq, bits64 r.pw, bits64 r.phs], fun _ => rfl⟩

end Locality

/-- Settles O47: a command's answer is computed from what its unit owns, which the other command leaves as it is; the
two answers can then be put in the state in either order. -/
theorem commandsOfDifferentUnitsCommute : Obligations.CommandsOfDifferentUnitsCommute := by
  intro i j u v s hi hj huv
  obtain ⟨F, ⟨f, hF⟩, hexeci⟩ := exec_local hi
  obtain ⟨G, ⟨g, hG⟩, hexecj⟩ := exec_local hj
  let a := f (s.owned u)
  let b := g (s.owned v)
  have hij : G (F s) = (s.settle a).settle b := by rw [hG, hF, owned_settle_of_ne huv]
  have hji : F (G s) = (s.settle b).settle a := by rw [hF, hG, owned_settle_of_ne huv.symm]
  refine ⟨F s, G s, (s.settle b).settle a, a.response, b.response, hexeci s, hexecj s, ?_, ?_⟩
  · rw [hexecj, hij, settle_settle huv]
  · rw [hexeci, hji, settle_settle huv.symm]

end Sys2Proof.Machine
end

section
/-! PROOFS. O1 to O4, the encoding. What a command word is accepted for is said once, as the checks of R93, and so is
what an instruction and its row of R92 have to do with each other, for the encoder and for the decoder. Both round trips
follow: every well-formed instruction is on a row, and every row with immediates in range is some instruction's. -/

namespace Sys2Proof

section CodeTables

/-- An OPC value that names an operation is its code (R88). -/
theorem code_of_opOfCode {c : BitVec 8} {o : Op} (h : Op.ofCode c = some o) : o.code = c := by
  unfold Op.ofCode at h
  split at h
  case h_13 => cases h
  all_goals
    next hc =>
      cases h
      exact BitVec.eq_of_toNat_eq hc.symm

/-- A UNIT value that names a unit is its code (R87). -/
theorem code_of_unitOfCode {c : BitVec 4} {u : UnitId} (h : UnitId.ofCode c = some u) : u.code = c := by
  unfold UnitId.ofCode at h
  split at h
  case h_10 => cases h
  all_goals
    next hc =>
      cases h
      exact BitVec.eq_of_toNat_eq hc.symm

/-- Every form number has a realization, with that number (10_state.md R37). -/
theorem code_formOfCode (c : BitVec 2) : (Form.ofCode c).code = c := by
  revert c
  decide

end CodeTables

section Heads

variable {cw : Word32} {h : Head} {o : Op} {u : UnitId} {sub : BitVec 4} {idx : BitVec 8}

/-- What the decode algorithm of R93 checks of a command word. -/
theorem decodeHead_eq_ok_iff : decodeHead cw = .ok h ↔
    zeroField cw = 0 ∧ Op.ofCode (opcField cw) = some h.op ∧ UnitId.ofCode (unitField cw) = some h.unit ∧
      subField cw = h.sub ∧ idxField cw = h.idx ∧ (rowOperands h.op h.unit).isSome = true ∧
      immediateReject h = none := by
  constructor
  · intro hd
    unfold decodeHead decodeRow at hd
    split at hd
    · cases hd
    next g hrow =>
    split at hd
    · cases hd
    next himm =>
    cases hd
    split at hrow
    · cases hrow
    next hzero =>
    split at hrow
    · next ho hu =>
      split at hrow
      · next hsome =>
        cases hrow
        exact ⟨not_not.1 hzero, ho, hu, rfl, rfl, hsome, himm⟩
      · cases hrow
    · cases hrow
  · rintro ⟨hzero, ho, hu, hsub, hidx, hsome, himm⟩
    simp [decodeHead, decodeRow, hzero, ho, hu, hsub, hidx, hsome, himm]

/-- A command word without a row is refused as illegal, not for its operand count (R98). -/
theorem decodeRow_ne_misframed : decodeRow cw ≠ .error .misframed := by
  unfold decodeRow
  split
  · nofun
  split
  · split <;> nofun
  · nofun

/-- Immediates out of their row's range are refused as illegal, not for the operand count (R98). -/
theorem immediateReject_ne_misframed : immediateReject h ≠ some .misframed := by
  unfold immediateReject
  split
  all_goals
    split
    · nofun
    · split <;> nofun

/-- A command word that is refused is refused as illegal, not for its operand count (R98). -/
theorem decodeHead_ne_misframed : decodeHead cw ≠ .error .misframed := by
  intro hd
  unfold decodeHead at hd
  split at hd
  · next hrow =>
    cases hd
    exact decodeRow_ne_misframed hrow
  split at hd
  · next himm =>
    cases hd
    exact immediateReject_ne_misframed himm
  · cases hd

/-- The operations with no immediate. -/
def Op.plain : Op → Bool
  | .gets | .gate | .setform => false
  | .reset | .clr | .setp | .getp | .proc | .rend | .retrig | .ldcoef | .rdflt => true

/-- Two checks in a row pass when neither finds a fault. -/
theorem checks_eq_none_iff {a b : Prop} [Decidable a] [Decidable b] {q r : Reject} :
    (if ¬a then some q else if ¬b then some r else none) = none ↔ a ∧ b := by
  by_cases ha : a
  · by_cases hb : b <;> simp [ha, hb]
  · simp [ha]

/-- SUB and IDX are zero in a command with no immediate (R93). -/
theorem immediateReject_plain (ho : o.plain = true) :
    immediateReject ⟨o, u, sub, idx⟩ = none ↔ sub = 0 ∧ idx = 0 := by
  cases o with
  | gets | gate | setform => cases ho
  | reset | clr | setp | getp | proc | rend | retrig | ldcoef | rdflt => exact checks_eq_none_iff

/-- `GETS` has SUB 0 and the index of a register of its unit (R93). -/
theorem immediateReject_gets :
    immediateReject ⟨.gets, u, sub, idx⟩ = none ↔ sub = 0 ∧ idxOk u idx = true := by
  rw [← checks_eq_none_iff (q := .subField) (r := .indexPastLast)]
  cases h : idxOk u idx <;> simp [immediateReject, h]

/-- `GATE` uses bit 0 of SUB and no other immediate bit (R93). -/
theorem immediateReject_gate :
    immediateReject ⟨.gate, u, sub, idx⟩ = none ↔ sub.toNat ≤ 1 ∧ idx = 0 := by
  have hsub : sub.extractLsb' 1 3 = 0 ↔ sub.toNat ≤ 1 := by
    revert sub
    decide
  rw [← hsub]
  exact checks_eq_none_iff

/-- `SETFORM` uses bits 1:0 of SUB and no other immediate bit (R93). -/
theorem immediateReject_setform :
    immediateReject ⟨.setform, u, sub, idx⟩ = none ↔ sub.toNat ≤ 3 ∧ idx = 0 := by
  have hsub : sub.extractLsb' 2 2 = 0 ↔ sub.toNat ≤ 3 := by
    revert sub
    decide
  rw [← hsub]
  exact checks_eq_none_iff

end Heads

section Rows

variable {cw : Word32} {o : Op} {u : UnitId} {sub : BitVec 4} {idx : BitVec 8} {ops : List Word64} {i : Instr}

/-- The instruction is the row (OPC, UNIT) of R92 with these immediates and operand words, for the decoder and for its
encoding. -/
structure OnRow (i : Instr) (o : Op) (u : UnitId) (sub : BitVec 4) (idx : BitVec 8) (ops : List Word64) : Prop where
  build_eq : build o u sub idx ops = some i
  encode_eq : encode i = mkFrame o u sub idx ops
  rowOperands_eq : rowOperands o u = some ops.length
  immediateReject_eq : immediateReject ⟨o, u, sub, idx⟩ = none
  wf : i.wf = true

/-- A row without immediates. -/
theorem OnRow.plain (hb : build o u 0 0 ops = some i) (he : encode i = mkFrame o u 0 0 ops)
    (hr : rowOperands o u = some ops.length) (ho : o.plain = true) (hw : i.wf = true) : OnRow i o u 0 0 ops :=
  ⟨hb, he, hr, (immediateReject_plain ho).2 ⟨rfl, rfl⟩, hw⟩

/-- A row of `GETS`. -/
theorem OnRow.gets (hb : build .gets u 0 idx [] = some i) (he : encode i = mkFrame .gets u 0 idx [])
    (hi : idxOk u idx = true) (hw : i.wf = true) : OnRow i .gets u 0 idx [] :=
  ⟨hb, he, rfl, immediateReject_gets.2 ⟨rfl, hi⟩, hw⟩

/-- The row of `GATE` (R173). -/
theorem OnRow.gate (b : Bool) : OnRow (.gateEnv b) .gate .env (if b then 1 else 0) 0 [] := by
  cases b with
  | false => exact ⟨rfl, rfl, rfl, rfl, rfl⟩
  | true => exact ⟨rfl, rfl, rfl, rfl, rfl⟩

/-- The row of `SETFORM` (R116). -/
theorem OnRow.setform (f : Form) : OnRow (.setformBq f) .setform .bq (f.code.setWidth 4) 0 [] := by
  cases f with
  | direct | canonical | transposedDirect | transposedCanonical => exact ⟨rfl, rfl, rfl, rfl, rfl⟩

/-- Every well-formed instruction is on a row (R92). -/
theorem onRow_of_wf (h : i.wf = true) : ∃ o u sub idx ops, OnRow i o u sub idx ops := by
  cases i with
  | getsBq | getsZlp | getsZhp | getsLlp | getsLhp | getsSkh | getsEnv | getsOsn | getsOsa =>
    exact ⟨_, _, _, _, _, .gets rfl rfl h h⟩
  | gateEnv b => exact ⟨_, _, _, _, _, .gate b⟩
  | setformBq f => exact ⟨_, _, _, _, _, .setform f⟩
  | resetBq | resetZlp | resetZhp | resetLlp | resetLhp | resetSkh | resetEnv | resetOsn | resetOsa | clrBq
  | setpBq | setpZlp | setpZhp | setpLlp | setpLhp | setpSkh | setpEnv | setpOsn | setpOsa
  | getpBq | getpZlp | getpZhp | getpLlp | getpLhp | getpSkh | getpEnv | getpOsn | getpOsa
  | procBq | procZlp | procZhp | procLlp | procLhp | procSkh | rendEnv | rendOsn | rendOsa
  | retrigOsn | retrigOsa | ldcoefBq | rdflt => exact ⟨_, _, _, _, _, .plain rfl rfl rfl rfl h⟩

/-- SUB of `GATE` is its operand, zero-extended (R92). -/
theorem gateSub_eq (h : sub.toNat ≤ 1) : ∃ b : Bool, sub = if b then 1 else 0 := by
  revert sub
  decide

/-- SUB of `SETFORM` is its form number, zero-extended (R92). -/
theorem formSub_eq (h : sub.toNat ≤ 3) : ∃ f : Form, sub = f.code.setWidth 4 := by
  have hsub : sub = (sub.extractLsb' 0 2).setWidth 4 := by
    revert sub
    decide
  exact ⟨Form.ofCode (sub.extractLsb' 0 2), by rwa [code_formOfCode]⟩

/-- Every row without immediates, with its operand words, is some instruction's. -/
theorem onRow_of_plain (hr : rowOperands o u = some ops.length) (ho : o.plain = true) :
    ∃ i, OnRow i o u 0 0 ops := by
  cases o with
  | gets | gate | setform => cases ho
  | reset =>
    obtain ⟨sr, rfl⟩ := List.length_eq_one_iff.1 (Option.some.inj hr).symm
    cases u with
    | bq | zlp | zhp | llp | lhp | skh | env | osn | osa => exact ⟨_, .plain rfl rfl rfl rfl rfl⟩
  | clr | rdflt =>
    cases u with
    | zlp | zhp | llp | lhp | skh | env | osn | osa => cases hr
    | bq =>
      obtain rfl := List.length_eq_zero_iff.1 (Option.some.inj hr).symm
      exact ⟨_, .plain rfl rfl rfl rfl rfl⟩
  | setp =>
    cases u with
    | bq | zlp | zhp =>
      obtain ⟨fc, rfl⟩ := List.length_eq_one_iff.1 (Option.some.inj hr).symm
      exact ⟨_, .plain rfl rfl rfl rfl rfl⟩
    | llp | lhp | skh =>
      obtain ⟨fc, res, rfl⟩ := List.length_eq_two.1 (Option.some.inj hr).symm
      exact ⟨_, .plain rfl rfl rfl rfl rfl⟩
    | env =>
      match ops, Option.some.inj hr with
      | [att, dec, sus, rel], _ => exact ⟨_, .plain rfl rfl rfl rfl rfl⟩
    | osn | osa =>
      obtain ⟨freq, pw, phs, rfl⟩ := List.length_eq_three.1 (Option.some.inj hr).symm
      exact ⟨_, .plain rfl rfl rfl rfl rfl⟩
  | getp =>
    obtain rfl := List.length_eq_zero_iff.1 (Option.some.inj hr).symm
    cases u with
    | bq | zlp | zhp | llp | lhp | skh | env | osn | osa => exact ⟨_, .plain rfl rfl rfl rfl rfl⟩
  | proc =>
    cases u with
    | env | osn | osa => cases hr
    | bq | zlp | zhp | llp | lhp | skh =>
      obtain ⟨x, rfl⟩ := List.length_eq_one_iff.1 (Option.some.inj hr).symm
      exact ⟨_, .plain rfl rfl rfl rfl rfl⟩
  | rend =>
    cases u with
    | bq | zlp | zhp | llp | lhp | skh => cases hr
    | env | osn | osa =>
      obtain rfl := List.length_eq_zero_iff.1 (Option.some.inj hr).symm
      exact ⟨_, .plain rfl rfl rfl rfl rfl⟩
  | retrig =>
    cases u with
    | bq | zlp | zhp | llp | lhp | skh | env => cases hr
    | osn | osa =>
      obtain rfl := List.length_eq_zero_iff.1 (Option.some.inj hr).symm
      exact ⟨_, .plain rfl rfl rfl rfl rfl⟩
  | ldcoef =>
    cases u with
    | zlp | zhp | llp | lhp | skh | env | osn | osa => cases hr
    | bq =>
      match ops, Option.some.inj hr with
      | [a0, a1, a2, b1, b2], _ => exact ⟨_, .plain rfl rfl rfl rfl rfl⟩

/-- Every row of R92 with immediates in range and the row's operand count is some instruction's. -/
theorem onRow_of_operands (hr : rowOperands o u = some ops.length) (hi : immediateReject ⟨o, u, sub, idx⟩ = none) :
    ∃ i, OnRow i o u sub idx ops := by
  cases o with
  | gets =>
    obtain ⟨rfl, hidx⟩ := immediateReject_gets.1 hi
    obtain rfl := List.length_eq_zero_iff.1 (Option.some.inj hr).symm
    cases u with
    | bq | zlp | zhp | llp | lhp | skh | env | osn | osa => exact ⟨_, .gets rfl rfl hidx hidx⟩
  | gate =>
    obtain ⟨hsub, rfl⟩ := immediateReject_gate.1 hi
    obtain ⟨b, rfl⟩ := gateSub_eq hsub
    cases u with
    | bq | zlp | zhp | llp | lhp | skh | osn | osa => cases hr
    | env =>
      obtain rfl := List.length_eq_zero_iff.1 (Option.some.inj hr).symm
      exact ⟨_, .gate b⟩
  | setform =>
    obtain ⟨hsub, rfl⟩ := immediateReject_setform.1 hi
    obtain ⟨f, rfl⟩ := formSub_eq hsub
    cases u with
    | zlp | zhp | llp | lhp | skh | env | osn | osa => cases hr
    | bq =>
      obtain rfl := List.length_eq_zero_iff.1 (Option.some.inj hr).symm
      exact ⟨_, .setform f⟩
  | reset | clr | setp | getp | proc | rend | retrig | ldcoef | rdflt =>
    obtain ⟨rfl, rfl⟩ := (immediateReject_plain rfl).1 hi
    exact onRow_of_plain hr rfl

end Rows
section Fields

variable {a b cw : Word32}

theorem opcField_toNat (cw : Word32) : (opcField cw).toNat = cw.toNat / 2 ^ 24 := by
  have hcw := cw.isLt
  simp only [opcField, BitVec.extractLsb'_toNat, Nat.shiftRight_eq_div_pow]
  omega

theorem unitField_toNat (cw : Word32) : (unitField cw).toNat = cw.toNat / 2 ^ 20 % 16 := by
  simp [unitField, Nat.shiftRight_eq_div_pow]

theorem subField_toNat (cw : Word32) : (subField cw).toNat = cw.toNat / 2 ^ 16 % 16 := by
  simp [subField, Nat.shiftRight_eq_div_pow]

theorem idxField_toNat (cw : Word32) : (idxField cw).toNat = cw.toNat / 2 ^ 8 % 256 := by
  simp [idxField, Nat.shiftRight_eq_div_pow]

theorem zeroField_toNat (cw : Word32) : (zeroField cw).toNat = cw.toNat % 256 := by
  simp [zeroField]

/-- The five fields of R86 are the whole command word. -/
theorem eq_of_fields (hopc : opcField a = opcField b) (hunit : unitField a = unitField b)
    (hsub : subField a = subField b) (hidx : idxField a = idxField b) (hzero : zeroField a = zeroField b) :
    a = b := by
  have opc := congrArg BitVec.toNat hopc
  have unit := congrArg BitVec.toNat hunit
  have sub := congrArg BitVec.toNat hsub
  have idx := congrArg BitVec.toNat hidx
  have zero := congrArg BitVec.toNat hzero
  rw [opcField_toNat, opcField_toNat] at opc
  rw [unitField_toNat, unitField_toNat] at unit
  rw [subField_toNat, subField_toNat] at sub
  rw [idxField_toNat, idxField_toNat] at idx
  rw [zeroField_toNat, zeroField_toNat] at zero
  exact BitVec.eq_of_toNat_eq (by omega)

end Fields

section Frames

variable {cw : Word32} {f : Frame} {h : Head} {r : Reject} {o : Op} {u : UnitId} {sub : BitVec 4} {idx : BitVec 8}
  {ops : List Word64} {i : Instr}

/-- An accepted command word is the one its row and immediates make up (R86). -/
theorem mkFrame_of_decodeHead (hd : decodeHead cw = .ok h) (ops : List Word64) :
    mkFrame h.op h.unit h.sub h.idx ops = ⟨cw, ops⟩ := by
  obtain ⟨hzero, ho, hu, hsub, hidx, -, -⟩ := decodeHead_eq_ok_iff.1 hd
  have hcw : (mkFrame h.op h.unit h.sub h.idx ops).cw = cw := by
    apply eq_of_fields
    · rw [opcField_mkFrame, code_of_opOfCode ho]
    · rw [unitField_mkFrame, code_of_unitOfCode hu]
    · rw [subField_mkFrame, hsub]
    · rw [idxField_mkFrame, hidx]
    · rw [zeroField_mkFrame, hzero]
  rw [← hcw]
  rfl

/-- An accepted command word selects its row's operand count (R89). -/
theorem rowOperands_of_decodeHead (hd : decodeHead cw = .ok h) :
    rowOperands h.op h.unit = some (operandCount cw) := by
  obtain ⟨-, -, -, -, -, hsome, -⟩ := decodeHead_eq_ok_iff.1 hd
  obtain ⟨n, hn⟩ := Option.isSome_iff_exists.1 hsome
  simp [operandCount, hd, hn]

/-- No operand words follow a refused command word (R98). -/
theorem operandCount_of_error (hd : decodeHead cw = .error r) : operandCount cw = 0 := by simp [operandCount, hd]

theorem framed_iff : f.framed = true ↔ f.ops.length = operandCount f.cw := by simp [Frame.framed]

theorem OnRow.decodeHead_encode (hrow : OnRow i o u sub idx ops) :
    decodeHead (encode i).cw = .ok ⟨o, u, sub, idx⟩ := by
  rw [hrow.encode_eq]
  exact decodeHead_mkFrame o u sub idx ops (Option.isSome_of_eq_some hrow.rowOperands_eq) hrow.immediateReject_eq

/-- A frame that carries a row's words, as the interface frames them, decodes to the row's instruction (R93). -/
theorem OnRow.decode_encode (hrow : OnRow i o u sub idx ops) : decode (encode i) = .ok i := by
  have hhead := hrow.decodeHead_encode
  have hops : (encode i).ops = ops := by rw [hrow.encode_eq]; rfl
  have hframed : (encode i).framed = true := by
    have hcount := (rowOperands_of_decodeHead hhead).symm.trans hrow.rowOperands_eq
    rw [framed_iff, hops, Option.some.inj hcount]
  simp [decode, hframed, hhead, hops, hrow.build_eq]

/-- Every accepted command word, with its operand words, is the encoding of a well-formed instruction. -/
theorem exists_encode_eq (hd : decodeHead f.cw = .ok h) (hf : f.framed = true) :
    ∃ i : Instr, i.wf = true ∧ encode i = f := by
  have hcount : rowOperands h.op h.unit = some f.ops.length := by
    rw [framed_iff.1 hf, rowOperands_of_decodeHead hd]
  obtain ⟨-, -, -, -, -, -, himm⟩ := decodeHead_eq_ok_iff.1 hd
  obtain ⟨i, hrow⟩ := onRow_of_operands hcount himm
  exact ⟨i, hrow.wf, by rw [hrow.encode_eq, mkFrame_of_decodeHead hd]⟩

/-- Decoding undoes encoding (R92, R93). -/
theorem decode_encode (hwf : i.wf = true) : decode (encode i) = .ok i := by
  obtain ⟨o, u, sub, idx, ops, hrow⟩ := onRow_of_wf hwf
  exact hrow.decode_encode

/-- A frame that decodes is framed and has an accepted command word. -/
theorem framed_and_decodeHead_of_decode (hd : decode f = .ok i) :
    f.framed = true ∧ ∃ h, decodeHead f.cw = .ok h := by
  unfold decode at hd
  split at hd
  · next hf =>
    split at hd
    · cases hd
    · next h hhead => exact ⟨hf, h, hhead⟩
  · cases hd

/-- Encoding undoes decoding (R92, R98): the frame is the encoding of some instruction, which is then the one it
decodes to. -/
theorem encode_of_decode (hd : decode f = .ok i) : encode i = f ∧ i.wf = true := by
  obtain ⟨hf, h, hhead⟩ := framed_and_decodeHead_of_decode hd
  obtain ⟨j, hwf, rfl⟩ := exists_encode_eq hhead hf
  cases (decode_encode hwf).symm.trans hd
  exact ⟨rfl, hwf⟩

/-- A framed frame with a refused command word is refused for what is wrong with the word. -/
theorem decode_of_error (hf : f.framed = true) (hd : decodeHead f.cw = .error r) : decode f = .error r := by
  simp [decode, hf, hd]

/-- A framed frame is never refused for its operand count (R73, R85). -/
theorem decode_ne_misframed (hf : f.framed = true) : decode f ≠ .error .misframed := by
  cases hhead : decodeHead f.cw with
  | ok h =>
    obtain ⟨i, hwf, rfl⟩ := exists_encode_eq hhead hf
    rw [decode_encode hwf]
    nofun
  | error r =>
    rw [decode_of_error hf hhead]
    rintro ⟨rfl⟩
    exact decodeHead_ne_misframed hhead

end Frames

/-- Settles O2: a well-formed instruction is on a row of R92, and the words of a row decode to its instruction. -/
theorem encodedInstructionDecodesBack : Obligations.EncodedInstructionDecodesBack := by
  intro i hwf
  exact decode_encode hwf

/-- Settles O3: an accepted command word with its operand words is an encoding, and that decodes to one instruction. -/
theorem decodedFrameIsTheEncoding : Obligations.DecodedFrameIsTheEncoding := by
  intro f i hd
  exact encode_of_decode hd

section CommandWords

variable {cw : Word32} {o : Op} {u : UnitId} {sub : BitVec 4} {idx : BitVec 8} {c : BitVec 8} {d : BitVec 4}

/-- The values of OPC, UNIT, SUB and IDX that R92 and R93 allow together, in numbers. -/
def CommandTable (opc unit sub idx : Nat) : Prop :=
  ((opc = 1 ∨ opc = 3 ∨ opc = 4) ∧ unit ≤ 8 ∧ sub = 0 ∧ idx = 0) ∨
  ((opc = 2 ∨ opc = 0x0B ∨ opc = 0x0C) ∧ unit = 0 ∧ sub = 0 ∧ idx = 0) ∨
  (opc = 5 ∧ sub = 0 ∧ ∃ last, [13, 6, 6, 14, 14, 9, 11, 7, 37][unit]? = some last ∧ idx ≤ last) ∨
  (opc = 6 ∧ unit ≤ 5 ∧ sub = 0 ∧ idx = 0) ∨
  (opc = 7 ∧ 6 ≤ unit ∧ unit ≤ 8 ∧ sub = 0 ∧ idx = 0) ∨
  (opc = 8 ∧ unit = 6 ∧ sub ≤ 1 ∧ idx = 0) ∨
  (opc = 9 ∧ (unit = 7 ∨ unit = 8) ∧ sub = 0 ∧ idx = 0) ∨
  (opc = 0x0A ∧ unit = 0 ∧ sub ≤ 3 ∧ idx = 0)

/-- The OPC values 1 to 12 name operations (R88). -/
theorem exists_opOfCode (h : 1 ≤ c.toNat ∧ c.toNat ≤ 12) : ∃ o, Op.ofCode c = some o := by
  obtain ⟨hlo, hhi⟩ := h
  unfold Op.ofCode
  interval_cases c.toNat
  all_goals exact ⟨_, rfl⟩

/-- The UNIT values 0 to 8 name units (R87). -/
theorem exists_unitOfCode (h : d.toNat ≤ 8) : ∃ u, UnitId.ofCode d = some u := by
  unfold UnitId.ofCode
  interval_cases d.toNat
  all_goals exact ⟨_, rfl⟩

/-- The table names no reserved opcode and no reserved unit (R87, R88). -/
theorem CommandTable.bounds {opc unit sub idx : Nat} (h : CommandTable opc unit sub idx) :
    (1 ≤ opc ∧ opc ≤ 12) ∧ unit ≤ 8 := by
  rcases h with h | h | ⟨hopc, -, last, hlast, -⟩ | h | h | h | h | h
  case inr.inr.inl =>
    obtain ⟨hunit, -⟩ := List.getElem?_eq_some_iff.1 hlast
    simp only [List.length_cons, List.length_nil] at hunit
    omega
  all_goals omega

/-- The UNIT values with which an operation is a row of R92. -/
def Op.hasUnit (o : Op) (unit : Nat) : Bool :=
  match o with
  | .reset | .setp | .getp | .gets => unit ≤ 8
  | .clr | .setform | .ldcoef | .rdflt => unit = 0
  | .proc => unit ≤ 5
  | .rend => 6 ≤ unit ∧ unit ≤ 8
  | .gate => unit = 6
  | .retrig => unit = 7 ∨ unit = 8

theorem rowOperands_isSome (o : Op) (u : UnitId) : (rowOperands o u).isSome = o.hasUnit u.code.toNat := by
  cases o <;> cases u <;> rfl

/-- The last register indices of R93 in unit order. -/
theorem lastIdx_of_code (u : UnitId) : [13, 6, 6, 14, 14, 9, 11, 7, 37][u.code.toNat]? = some (lastIdx u) := by
  cases u <;> rfl

theorem code_toNat_le (u : UnitId) : u.code.toNat ≤ 8 := by cases u <;> decide

/-- The table has the pairs that are rows of R92, with the immediates that the row accepts. -/
theorem commandTable_iff : CommandTable o.code.toNat u.code.toNat sub.toNat idx.toNat ↔
    (rowOperands o u).isSome = true ∧ immediateReject ⟨o, u, sub, idx⟩ = none := by
  have hsub : sub = 0 ↔ sub.toNat = 0 := BitVec.toNat_inj.symm
  have hidx : idx = 0 ↔ idx.toNat = 0 := BitVec.toNat_inj.symm
  rw [rowOperands_isSome]
  cases o with
  | gets =>
    rw [immediateReject_gets, hsub]
    simp [CommandTable, Op.code, Op.hasUnit, lastIdx_of_code, code_toNat_le, idxOk]
  | gate =>
    rw [immediateReject_gate, hidx]
    simp [CommandTable, Op.code, Op.hasUnit]
  | setform =>
    rw [immediateReject_setform, hidx]
    simp [CommandTable, Op.code, Op.hasUnit]
  | reset | clr | setp | getp | proc | rend | retrig | ldcoef | rdflt =>
    rw [immediateReject_plain rfl, hsub, hidx]
    simp [CommandTable, Op.code, Op.hasUnit, and_assoc]

/-- The decode algorithm accepts the command words with ZERO = 0 whose other fields are in the table. -/
theorem decodeHead_ok_iff_commandTable : (∃ h, decodeHead cw = .ok h) ↔ (zeroField cw).toNat = 0 ∧
    CommandTable (opcField cw).toNat (unitField cw).toNat (subField cw).toNat (idxField cw).toNat := by
  constructor
  · rintro ⟨h, hd⟩
    obtain ⟨hzero, ho, hu, hsub, hidx, hrow⟩ := decodeHead_eq_ok_iff.1 hd
    refine ⟨by rw [hzero]; rfl, ?_⟩
    rw [← code_of_opOfCode ho, ← code_of_unitOfCode hu, hsub, hidx]
    exact commandTable_iff.2 hrow
  · rintro ⟨hzero, htable⟩
    obtain ⟨hopc, hunit⟩ := htable.bounds
    obtain ⟨o, ho⟩ := exists_opOfCode hopc
    obtain ⟨u, hu⟩ := exists_unitOfCode hunit
    rw [← code_of_opOfCode ho, ← code_of_unitOfCode hu] at htable
    exact ⟨⟨o, u, subField cw, idxField cw⟩, decodeHead_eq_ok_iff.2
      ⟨BitVec.eq_of_toNat_eq hzero, ho, hu, rfl, rfl, commandTable_iff.1 htable⟩⟩

/-- An accepted command word is the command word of a well-formed instruction. -/
theorem exists_encode_cw_eq {h : Head} (hd : decodeHead cw = .ok h) :
    ∃ i : Instr, i.wf = true ∧ (encode i).cw = cw := by
  let f : Frame := ⟨cw, List.replicate (operandCount cw) 0⟩
  have hf : f.framed = true := framed_iff.2 List.length_replicate
  obtain ⟨i, hwf, hencode⟩ := exists_encode_eq (f := f) hd hf
  exact ⟨i, hwf, by rw [hencode]⟩

/-- A command word is accepted just when some operand words make it an instruction. -/
theorem exists_decode_iff : (∃ ops i, decode ⟨cw, ops⟩ = .ok i) ↔ ∃ h, decodeHead cw = .ok h := by
  constructor
  · rintro ⟨ops, i, hd⟩
    obtain ⟨-, haccepted⟩ := framed_and_decodeHead_of_decode hd
    exact haccepted
  · rintro ⟨h, hd⟩
    obtain ⟨i, hwf, rfl⟩ := exists_encode_cw_eq hd
    exact ⟨(encode i).ops, i, decode_encode hwf⟩

end CommandWords

/-- Settles O4: by the checks of R93 on the row and its immediates, read as numbers. -/
theorem acceptedCommandWords : Obligations.AcceptedCommandWords := by
  intro cw
  rw [exists_decode_iff, decodeHead_ok_iff_commandTable, zeroField_toNat, opcField_toNat, unitField_toNat,
    subField_toNat, idxField_toNat]
  exact Iff.rfl

/-- Settles O1: the words are the encodings of the instructions. -/
theorem specWordsDecode : Obligations.SpecWordsDecode :=
  ⟨decode_encode (i := .resetBq (f64 0x40E7700000000000)) rfl,
    decode_encode (i := .clrBq) rfl,
    decode_encode (i := .setpEnv (f64 1) (f64 2) (f64 3) (f64 4)) rfl,
    decode_encode (i := .getpOsn) rfl,
    decode_encode (i := .getsOsa 37) rfl,
    decode_encode (i := .procLlp (f64 7)) rfl,
    decode_encode (i := .rendOsa) rfl,
    decode_encode (i := .gateEnv true) rfl,
    decode_encode (i := .retrigOsn) rfl,
    decode_encode (i := .setformBq .transposedDirect) rfl,
    decode_encode (i := .ldcoefBq (f64 1) (f64 2) (f64 3) (f64 4) (f64 5)) rfl,
    decode_encode (i := .rdflt) rfl⟩

end Sys2Proof
end

section
/-! PROOFS. O5, O8, O9 and O49, the responses. A step refuses a framed command that decodes to nothing
and executes any other one, so it always answers. A command replies once: it is refused, or answered OK with the data of
its rule. -/

namespace Sys2Proof.Machine

section Replies

variable {U : Type} {s t : State} {c : Calc U (List Word64)} {k : Slot U} {n : Nat}

/-- What R85 and R232 say of a command's reply: it is OK with at most four data words, or the command is refused. -/
inductive Replied (s : State) : State → Prop
  | ok {t : State} (data : List Word64) (hlen : data.length ≤ 4) (ht : t.responses = ⟨.ok, data⟩ :: s.responses) :
    Replied s t
  | refused {code : Status} (hcode : code ≠ .ok) : Replied s (s.refuse code)

/-- The rule answers with `n` data words, on whatever registers it runs. -/
def Answers (n : Nat) (c : Calc U (List Word64)) : Prop := ∀ w, (c w).1.length = n

/-- A rule run on its slot is answered OK (R75, R85). -/
theorem Replied.run (hk : ∀ u s, (k.put u s).responses = s.responses) (hc : Answers n c) (hn : n ≤ 4) :
    Replied s (s.run k c) :=
  .ok _ ((hc _).trans_le hn) (congrArg (_ :: ·) (hk _ s))

/-- The check of INIT refuses NOT_INIT or lets the rule run (R234). -/
theorem Replied.runInit {init : Bool} (h : Replied s (s.run k c)) : Replied s (s.runInit k init c) := by
  rcases runInit_cases k init c s with ⟨-, hs⟩ | ⟨-, hs⟩
  · rw [hs]; exact h
  · rw [hs]; exact .refused nofun

theorem Replied.readBack (words : List Word64) (idx : BitVec 8) : Replied s (s.readBack words idx) := by
  rcases readBack_cases words idx s with ⟨w, -, hs⟩ | ⟨-, hs⟩
  · rw [hs]; exact .ok [w] (Nat.le_of_ble_eq_true rfl) rfl
  · rw [hs]; exact .refused nofun

theorem ruleSetpBq_answers (fc : F64) : Answers 0 (ruleSetpBq fc) := by
  intro w
  cases hne : F64.ne fc w.regs.fc
  · simp [ruleSetpBq, hne]
  cases hi : w.regs.init
  · simp [ruleSetpBq, hne, hi]
  · simp [ruleSetpBq, hne, hi]

theorem ruleSetformBq_answers (f : Form) : Answers 0 (ruleSetformBq f) := by
  intro w
  by_cases hf : f = w.regs.form
  · simp [ruleSetformBq, hf]
  · simp [ruleSetformBq, hf]

/-- Each realization answers one sample (R117 to R121). -/
theorem ruleProcBq_answers (x : F64) : Answers 1 (ruleProcBq x) := by
  intro w
  simp only [ruleProcBq, calc_bind, regs_apply]
  cases w.regs.form with
  | direct | canonical | transposedDirect | transposedCanonical => rfl

/-- `PROC.BQ` has a check of its own besides INIT (R117). -/
theorem execProcBq_replied {x : F64} (h : execProcBq x s = .next t) : Replied s t := by
  unfold execProcBq at h
  split at h
  · cases h; exact .refused nofun
  split at h
  · cases h; exact .refused nofun
  · cases h; exact .run (fun _ _ => rfl) (ruleProcBq_answers x) (by decide)

/-- Every command replies, once (R85). -/
theorem exec_replied {i : Instr} (h : exec i s = .next t) : Replied s t := by
  cases i with
  | resetBq | resetZlp | resetZhp | resetLlp | resetLhp | resetSkh | resetEnv | resetOsn | resetOsa
  | clrBq | setpEnv | gateEnv | ldcoefBq =>
    cases h; exact .run (n := 0) (fun _ _ => rfl) (fun _ => rfl) (by decide)
  | setpBq fc => cases h; exact .run (fun _ _ => rfl) (ruleSetpBq_answers fc) (by decide)
  | setformBq f => cases h; exact .run (fun _ _ => rfl) (ruleSetformBq_answers f) (by decide)
  | setpZlp | setpZhp | setpLlp | setpLhp | setpSkh | setpOsn =>
    cases h
    exact .run (n := 0) (fun _ _ => rfl) (fun w => congrArg (·.1.length) (setp_apply _ _ _ w)) (by decide)
  | setpOsa freq pw phs =>
    cases h
    exact .run (n := 0) (fun _ _ => rfl) (fun w => congrArg (·.1.length) (ruleSetpOsa_apply freq pw phs w)) (by decide)
  | procBq x => exact execProcBq_replied h
  | procZlp | procZhp | procLlp | procLhp | procSkh | rendEnv =>
    cases h; exact .runInit (.run (n := 1) (fun _ _ => rfl) (fun _ => rfl) (by decide))
  | rendOsn | rendOsa => cases h; exact .runInit (.run (n := 3) (fun _ _ => rfl) (fun _ => rfl) (by decide))
  | retrigOsn | retrigOsa => cases h; exact .runInit (.run (n := 0) (fun _ _ => rfl) (fun _ => rfl) (by decide))
  | getpBq | getpZlp | getpZhp | getpLlp | getpLhp | getpSkh | getpEnv | getpOsn | getpOsa | rdflt =>
    cases h; exact .ok _ (Nat.le_of_ble_eq_true rfl) rfl
  | getsBq idx | getsZlp idx | getsZhp idx | getsLlp idx | getsLhp idx | getsSkh idx | getsEnv idx | getsOsn idx
  | getsOsa idx => cases h; exact .readBack _ idx

end Replies

section Refusals

variable {s t : State} {f : Frame} {r : Reject}

/-- A step refuses an accepted frame that is no instruction (R93, R233). -/
theorem step_of_decode_error (ha : s.accept = some (f, t)) (hd : decode f = .error r) (hr : r ≠ .misframed) :
    step s = .next (t.refuse .illegal) := by
  cases r with
  | misframed => contradiction
  | zeroField | noRow | subField | idxField | indexPastLast => simp [step, ha, hd]

/-- A command leaves the pending commands alone (R75). -/
theorem Effect.port_eq {o : Option UnitId} (h : Effect s o t) : t.audio = s.audio ∧ t.control = s.control := by
  cases h with
  | respond | refuse | bq | zlp | zhp | llp | lhp | skh | env | osn | osa => exact ⟨rfl, rfl⟩

/-- A step answers an accepted frame that is framed, and leaves the other pending commands alone. -/
theorem exists_step_eq (ha : s.accept = some (f, t)) (hf : f.framed = true) :
    ∃ v, step s = .next v ∧ v.audio = t.audio ∧ v.control = t.control := by
  cases hd : decode f with
  | ok i =>
    obtain ⟨v, hv⟩ := exec_next i t
    obtain ⟨haudio, hcontrol⟩ := (exec_effect hv).port_eq
    exact ⟨v, (step_of_decode ha hd).trans hv, haudio, hcontrol⟩
  | error r =>
    have hr : r ≠ .misframed := by
      rintro rfl
      exact decode_ne_misframed hf hd
    exact ⟨_, step_of_decode_error ha hd hr, rfl, rfl⟩

theorem state_framed_iff :
    s.framed = true ↔ (∀ f ∈ s.audio, f.framed = true) ∧ ∀ f ∈ s.control, f.framed = true := by
  simp [State.framed]

/-- Taking a command from framed lists gives a framed command and leaves framed lists with one command less. -/
theorem accept_framed (ha : s.accept = some (f, t)) (hs : s.framed = true) :
    f.framed = true ∧ t.framed = true ∧
      t.audio.length + t.control.length = s.audio.length + s.control.length - 1 := by
  obtain ⟨haudio, hcontrol⟩ := state_framed_iff.1 hs
  rw [state_framed_iff]
  obtain ⟨⟨htaken, hother⟩ | ⟨htaken, hother⟩, -⟩ := accept_some ha
  · rw [htaken, List.forall_mem_cons] at haudio
    obtain ⟨hf, hrest⟩ := haudio
    rw [htaken, hother]
    exact ⟨hf, ⟨hrest, hcontrol⟩, by simp only [List.length_cons]; omega⟩
  · rw [htaken, List.forall_mem_cons] at hcontrol
    obtain ⟨hf, hrest⟩ := hcontrol
    rw [htaken, hother]
    exact ⟨hf, ⟨haudio, hrest⟩, by simp only [List.length_cons]; omega⟩

end Refusals

/-- Settles O5: a command word that is no instruction's is refused by the decode algorithm, so no operand words follow
it and the step refuses it as illegal. -/
theorem illegalWordSetsIllOnly : Obligations.IllegalWordSetsIllOnly := by
  intro cw s hnone
  cases hhead : decodeHead cw with
  | ok h => exact absurd (exists_encode_cw_eq hhead) hnone
  | error r =>
    have hframed : Frame.framed ⟨cw, []⟩ = true := framed_iff.2 (operandCount_of_error hhead).symm
    have hr : r ≠ .misframed := by
      rintro rfl
      exact decodeHead_ne_misframed hhead
    exact step_of_decode_error (accept_present ⟨cw, []⟩ s) (decode_of_error hframed hhead) hr

/-- Settles O9: a reply is one response, and a refusal is no other change than its flag and its response. -/
theorem oneResponseAndRefusalsChangeOnlyFlt : Obligations.OneResponseAndRefusalsChangeOnlyFlt := by
  intro i s t hexec
  cases exec_replied hexec with
  | ok data hlen ht => exact ⟨⟨.ok, data⟩, ht, hlen, fun hstatus => absurd rfl hstatus⟩
  | @refused code hcode =>
    refine ⟨⟨code, []⟩, rfl, Nat.zero_le 4, fun _ => ⟨rfl, ?_⟩⟩
    cases code with
    | ok | illegal | notInit | stateUndef => rfl

/-- Settles O49: a framed command is executed or refused, and neither touches the commands that are left. -/
theorem framedRunsNeverStop : Obligations.FramedRunsNeverStop := by
  intro s hs
  cases ha : s.accept with
  | none =>
    obtain ⟨haudio, hcontrol⟩ := accept_none ha
    exact ⟨s, step_of_accept_none ha, hs, by simp [haudio, hcontrol]⟩
  | some taken =>
    obtain ⟨f, t⟩ := taken
    obtain ⟨hf, ht, hlength⟩ := accept_framed ha hs
    obtain ⟨v, hstep, haudio, hcontrol⟩ := exists_step_eq ha hf
    refine ⟨v, hstep, ?_, ?_⟩
    · rw [State.framed, haudio, hcontrol]
      exact ht
    · rw [haudio, hcontrol, hlength]

/-- The header as a number: NDATA above the four bits of STATUS (R91). -/
theorem header_toNat {r : Response} (h : r.data.length ≤ 4) :
    r.header.toNat = r.data.length * 16 + r.status.code.toNat := by
  have hndata : ((0 : BitVec 24) ++ BitVec.ofNat 4 r.data.length).toNat = r.data.length := by
    rw [BitVec.toNat_append, BitVec.toNat_ofNat, BitVec.ofNat_eq_ofNat, BitVec.toNat_ofNat, Nat.zero_mod,
      Nat.zero_shiftLeft, Nat.zero_or, Nat.mod_eq_of_lt (by omega)]
  calc r.header.toNat
      = ((0 : BitVec 24) ++ BitVec.ofNat 4 r.data.length).toNat <<< 4 ||| r.status.code.toNat :=
        BitVec.toNat_append _ _
    _ = r.data.length * 16 + r.status.code.toNat := by
        rw [hndata, ← Nat.shiftLeft_add_eq_or_of_lt r.status.code.isLt, Nat.shiftLeft_eq]

/-- Settles O8: STATUS and NDATA each fit their four bits. -/
theorem responseHeaderLayout : Obligations.ResponseHeaderLayout := by
  intro r hlength
  rw [header_toNat hlength]
  cases r.status with
  | ok | illegal | notInit | stateUndef => rfl

end Sys2Proof.Machine
end

section
/-! PROOFS. O12 to O18 and O20, the biquad and the parameter readback. Each rule of BQ is computed once, as a function
on the unit's `Work`; running it on its slot then gives the next state. `w.nans k` is the NaN of the `k`-th
operation. -/

namespace Sys2Proof.Machine

section RunningARule

variable {U : Type} {s : State} {k : Slot U} {c : Calc U (List Word64)} {data : List Word64} {b : U}

/-- What a rule starts from: the unit's registers and draw counter, and no flag set. -/
def Slot.work (k : Slot U) (s : State) : Work U := ⟨k.unit, k.get s, s.draws.get k.unit, 0⟩

/-- The NaNs of a command's operations, in the order of the operations. -/
def Work.nans (w : Work U) (i : Nat) : F64 := nanAt w.unit (w.draws + i)

theorem allNaN_nans (w : Work U) : AllNaN w.nans := allNaN_nanAt w.unit w.draws

theorem Draws.set_get (d : Draws) (u : UnitId) : d.set u (d.get u) = d := by cases u <;> rfl

/-- The next state of a rule whose effect on the unit is known (R75, R85). -/
theorem run_of_apply {drawn : Nat} {f : BitVec 4}
    (h : c (k.work s) = (data, { k.work s with regs := b, draws := drawn, flags := (k.work s).flags ||| f })) :
    s.run k c = ({ k.put b s with draws := s.draws.set k.unit drawn, flt := s.flt ||| f }).respond data := by
  have hrun : s.run k c = ({ k.put (c (k.work s)).2.regs s with
      draws := s.draws.set k.unit (c (k.work s)).2.draws
      flt := s.flt ||| (c (k.work s)).2.flags }).respond (c (k.work s)).1 := rfl
  have hflags : (k.work s).flags ||| f = f := BitVec.zero_or
  rw [hrun, h, hflags]

/-- A rule that sets no flag leaves FLT. -/
theorem run_of_noFlag {drawn : Nat} (h : c (k.work s) = (data, { k.work s with regs := b, draws := drawn })) :
    s.run k c = ({ k.put b s with draws := s.draws.set k.unit drawn, flt := s.flt }).respond data := by
  have hzero : s.run k c = ({ k.put b s with draws := s.draws.set k.unit drawn, flt := s.flt ||| 0 }).respond data :=
    run_of_apply (h.trans (by rw [or_none]))
  rw [hzero, or_none]

/-- A rule that also performs no operation replaces the unit's registers and nothing else; `hput` says that the
slot holds neither the draw counters nor FLT. -/
theorem run_of_regs (hput : { k.put b s with draws := s.draws, flt := s.flt } = k.put b s)
    (h : c (k.work s) = (data, { k.work s with regs := b })) : s.run k c = (k.put b s).respond data := by
  have hdraws : s.draws.set k.unit (k.work s).draws = s.draws := Draws.set_get _ _
  rw [run_of_noFlag h, hdraws, hput]

end RunningARule

section Coefficients

variable {w : Work Bq} {fc : F64}

/-- R113: the coefficients that FC and SR give; `n` are the NaNs of the six operations. -/
def Bq.withCoefficients (u : Bq) (n : Nat → F64) : Bq :=
  let gamma := F64.div (n 1) (F64.mul (n 0) cTwoPi u.fc) u.sr
  let den := F64.add (n 2) gamma fTwo
  let a0 := F64.div (n 3) gamma den
  let b1 := F64.div (n 5) (F64.sub (n 4) gamma fTwo) den
  { u with a0 := a0, a1 := a0, a2 := fZero, b1 := b1, b2 := fZero }

theorem deriveBq_apply (w : Work Bq) :
    deriveBq w = ((), { w with regs := w.regs.withCoefficients w.nans, draws := w.draws + 6 }) := rfl

/-- R111: what `RESET.BQ` writes before it derives the coefficients. -/
def Bq.cleared (u : Bq) (sr : F64) : Bq :=
  { u with sr := sr, z0 := fZero, z1 := fZero, z2 := fZero, z3 := fZero, init := true, zv := true }

theorem ruleResetBq_apply (sr : F64) (w : Work Bq) :
    ruleResetBq sr w =
      ([], { w with regs := (w.regs.cleared sr).withCoefficients w.nans, draws := w.draws + 6 }) := rfl

/-- R112. -/
theorem ruleClrBq_apply (w : Work Bq) :
    ruleClrBq w =
      ([], { w with regs := { w.regs with z0 := fZero, z1 := fZero, z2 := fZero, z3 := fZero, zv := true } }) := rfl

/-- R115. -/
theorem ruleLdcoefBq_apply (a0 a1 a2 b1 b2 : F64) (w : Work Bq) :
    ruleLdcoefBq a0 a1 a2 b1 b2 w =
      ([], { w with regs := { w.regs with a0 := a0, a1 := a1, a2 := a2, b1 := b1, b2 := b2 } }) := rfl

/-- R114, the parameter repeated. -/
theorem ruleSetpBq_of_eq (h : F64.eq fc w.regs.fc = true) : ruleSetpBq fc w = ([], w) := by
  simp [ruleSetpBq, F64.ne, h]

/-- R114, a new parameter before the first `RESET.BQ`. -/
theorem ruleSetpBq_of_uninit (h : F64.eq fc w.regs.fc = false) (hi : w.regs.init = false) :
    ruleSetpBq fc w = ([], { w with regs := { w.regs with fc := fc } }) := by
  simp [ruleSetpBq, F64.ne, h, hi]

/-- R114, a new parameter of an initialised unit. -/
theorem ruleSetpBq_of_init (h : F64.eq fc w.regs.fc = false) (hi : w.regs.init = true) :
    ruleSetpBq fc w =
      ([], { w with regs := Bq.withCoefficients { w.regs with fc := fc } w.nans, draws := w.draws + 6 }) := by
  simp only [ruleSetpBq, calc_bind, calc_pure, regs_apply, plain_apply, F64.ne, h, hi, Bool.not_false, ↓reduceIte,
    deriveBq_apply]
  rfl

/-- R116: the form in force changes nothing; another one is stored and makes the state invalid. -/
theorem ruleSetformBq_apply (f : Form) (w : Work Bq) :
    ruleSetformBq f w =
      ([], { w with regs := if f = w.regs.form then w.regs else { w.regs with form := f, zv := false } }) := by
  by_cases hf : f = w.regs.form
  · simp [ruleSetformBq, hf]
  · simp [ruleSetformBq, hf]

end Coefficients

/-- Settles O12: six operations derive the coefficients from the stored FC and the new SR. -/
theorem resetBqClearsAndDerives : Obligations.ResetBqClearsAndDerives := by
  intro sr s
  exact ⟨_, _, allNaN_nans (slotBq.work s), congrArg _ (run_of_noFlag (ruleResetBq_apply sr _))⟩

/-- Settles O13: none of the three rules performs an operation. -/
theorem bqClearLoadAndSetform : Obligations.BqClearLoadAndSetform := by
  intro a0 a1 a2 b1 b2 f s
  refine ⟨?clr, ?ldcoef, ?setform⟩
  case clr => exact congrArg _ (run_of_regs rfl (ruleClrBq_apply (slotBq.work s)))
  case ldcoef => exact congrArg _ (run_of_regs rfl (ruleLdcoefBq_apply a0 a1 a2 b1 b2 (slotBq.work s)))
  case setform => exact congrArg _ (run_of_regs rfl (ruleSetformBq_apply f (slotBq.work s)))

/-- Settles O14: the branches of the memoised rule. -/
theorem setpBqIsMemoised : Obligations.SetpBqIsMemoised := by
  intro fc s
  refine ⟨fun heq => ?same, fun hne hi => ?stored, fun hne hi => ?derived⟩
  case same => exact congrArg _ (run_of_regs rfl (ruleSetpBq_of_eq (w := slotBq.work s) heq))
  case stored => exact congrArg _ (run_of_regs rfl (ruleSetpBq_of_uninit (w := slotBq.work s) hne hi))
  case derived =>
    have hrule := ruleSetpBq_of_init (w := slotBq.work s) hne hi
    exact ⟨_, _, allNaN_nans (slotBq.work s), congrArg _ (run_of_noFlag hrule)⟩

section Realizations

/-! The four proofs have two stages: the first runs the operations, the second normalises the draw counts, the registers
and the flags. In one stage, the rewriting of the counts inside unfinished terms does not end in reasonable time. -/

/-- The flags of a list of values set one after the other, as `out` and `wr` set them. -/
theorem or_nfAny_cons (f : BitVec 4) (v : F64) (vs : List F64) :
    f ||| nfAny (v :: vs) = f ||| nfFlag v ||| nfAny vs := by
  rw [nfAny_cons, BitVec.or_assoc]

/-- R118: nine operations; the histories shift, the newest input and output enter. -/
theorem bqDirect_apply (x : F64) (w : Work Bq) :
    bqDirect x w =
      let b := w.regs
      let y := (F64.sub (w.nans 8) (F64.sub (w.nans 6) (F64.add (w.nans 4) (F64.add (w.nans 2)
        (F64.mul (w.nans 0) b.a0 x) (F64.mul (w.nans 1) b.a1 b.z0)) (F64.mul (w.nans 3) b.a2 b.z1))
        (F64.mul (w.nans 5) b.b1 b.z2)) (F64.mul (w.nans 7) b.b2 b.z3)).flush
      (y, { w with
        regs := { b with z1 := b.z0.flush, z0 := x.flush, z3 := b.z2.flush, z2 := y.flush }, draws := w.draws + 9
        flags := w.flags ||| nfAny [y, b.z0, x, b.z2, y] }) := by
  simp only [bqDirect, calc_bind, calc_pure, regs_apply, rd_apply, fmul_apply, fadd_apply, fsub_apply, out_apply,
    wr_apply, Work.tick]
  simp only [regZ0, regZ1, regZ2, regZ3, Work.nan, Work.nans, or_nfAny_cons, nfAny_nil, or_none, nfFlag_flush,
    Nat.add_assoc, Nat.reduceAdd, Nat.add_zero]

/-- R119: nine operations; Z0 and Z1 alone are written. -/
theorem bqCanon_apply (x : F64) (w : Work Bq) :
    bqCanon x w =
      let b := w.regs
      let v := F64.sub (w.nans 3) (F64.sub (w.nans 1) x (F64.mul (w.nans 0) b.b1 b.z0)) (F64.mul (w.nans 2) b.b2 b.z1)
      let y := (F64.add (w.nans 8) (F64.add (w.nans 6) (F64.mul (w.nans 4) b.a0 v) (F64.mul (w.nans 5) b.a1 b.z0))
        (F64.mul (w.nans 7) b.a2 b.z1)).flush
      (y, { w with
        regs := { b with z1 := b.z0.flush, z0 := v.flush }, draws := w.draws + 9
        flags := w.flags ||| nfAny [y, b.z0, v] }) := by
  simp only [bqCanon, calc_bind, calc_pure, regs_apply, rd_apply, fmul_apply, fadd_apply, fsub_apply, out_apply,
    wr_apply, Work.tick]
  simp only [regZ0, regZ1, Work.nan, Work.nans, or_nfAny_cons, nfAny_nil, or_none, nfFlag_flush,
    Nat.add_assoc, Nat.reduceAdd, Nat.add_zero]

/-- R120: nine operations; each sum reads the partial sum of its neighbour before that one is replaced. -/
theorem bqTransDirect_apply (x : F64) (w : Work Bq) :
    bqTransDirect x w =
      let b := w.regs
      let v := F64.add (w.nans 0) x b.z2
      let y := (F64.add (w.nans 2) (F64.mul (w.nans 1) b.a0 v) b.z0).flush
      let z2 := (F64.sub (w.nans 4) b.z3 (F64.mul (w.nans 3) b.b1 v)).flush
      let z3 := ((F64.mul (w.nans 5) b.b2 v).neg).flush
      let z0 := (F64.add (w.nans 7) b.z1 (F64.mul (w.nans 6) b.a1 v)).flush
      let z1 := (F64.mul (w.nans 8) b.a2 v).flush
      (y, { w with
        regs := { b with z2 := z2, z3 := z3, z0 := z0, z1 := z1 }, draws := w.draws + 9
        flags := w.flags ||| nfAny [y, z2, z3, z0, z1] }) := by
  simp only [bqTransDirect, calc_bind, calc_pure, regs_apply, rd_apply, fmul_apply, fadd_apply, fsub_apply, out_apply,
    wr_apply, Work.tick]
  simp only [regZ0, regZ1, regZ2, regZ3, Work.nan, Work.nans, or_nfAny_cons, nfAny_nil, or_none, nfFlag_flush,
    Nat.add_assoc, Nat.reduceAdd, Nat.add_zero]

/-- R121: nine operations; both sums read the flushed output. -/
theorem bqTransCanon_apply (x : F64) (w : Work Bq) :
    bqTransCanon x w =
      let b := w.regs
      let y := (F64.add (w.nans 1) (F64.mul (w.nans 0) b.a0 x) b.z0).flush
      let z0 := (F64.add (w.nans 5) (F64.sub (w.nans 4) (F64.mul (w.nans 2) b.a1 x) (F64.mul (w.nans 3) b.b1 y))
        b.z1).flush
      let z1 := (F64.sub (w.nans 8) (F64.mul (w.nans 6) b.a2 x) (F64.mul (w.nans 7) b.b2 y)).flush
      (y, { w with
        regs := { b with z0 := z0, z1 := z1 }, draws := w.draws + 9, flags := w.flags ||| nfAny [y, z0, z1] }) := by
  simp only [bqTransCanon, calc_bind, calc_pure, regs_apply, rd_apply, fmul_apply, fadd_apply, fsub_apply, out_apply,
    wr_apply, Work.tick]
  simp only [regZ0, regZ1, Work.nan, Work.nans, or_nfAny_cons, nfAny_nil, or_none, nfFlag_flush,
    Nat.add_assoc, Nat.reduceAdd, Nat.add_zero]

/-- The computation of a form (R117). -/
def realization : Form → F64 → Calc Bq F64
  | .direct => bqDirect
  | .canonical => bqCanon
  | .transposedDirect => bqTransDirect
  | .transposedCanonical => bqTransCanon

/-- R117: the realization that FORM selects gives the one data word. -/
theorem ruleProcBq_apply (x : F64) (w : Work Bq) :
    ruleProcBq x w =
      ([bits64 (realization w.regs.form x w).1], (realization w.regs.form x w).2) := by
  simp only [ruleProcBq, calc_bind, regs_apply]
  cases w.regs.form with
  | direct | canonical | transposedDirect | transposedCanonical => rfl

variable {s : State} {x y : F64} {b : Bq} {drawn : Nat} {f : BitVec 4}

/-- `PROC.BQ` with both checks passed runs the rule (R117, R235, R238). -/
theorem exec_procBq_of_valid (hinit : s.bq.init = true) (hzv : s.bq.zv = true) :
    exec (.procBq x) s = .next (s.run slotBq (ruleProcBq x)) := by
  have hexec : exec (.procBq x) s = execProcBq x s := rfl
  simp [hexec, execProcBq, hinit, hzv]

/-- The next state of `PROC.BQ`, from what the realization computes. -/
theorem exec_procBq_of_realization (hinit : s.bq.init = true) (hzv : s.bq.zv = true) {form : Form}
    (hform : s.bq.form = form) (h : realization form x (slotBq.work s) = (y, { slotBq.work s with
      regs := b, draws := drawn, flags := (slotBq.work s).flags ||| f })) :
    exec (.procBq x) s = .next { s with
      bq := b, flt := s.flt ||| f, draws := s.draws.set .bq drawn
      responses := ⟨.ok, [bits64 y]⟩ :: s.responses } := by
  have hwork : (slotBq.work s).regs.form = form := hform
  have hrule : ruleProcBq x (slotBq.work s) = ([bits64 y], { slotBq.work s with
      regs := b, draws := drawn, flags := (slotBq.work s).flags ||| f }) := by
    rw [ruleProcBq_apply, hwork, h]
  rw [exec_procBq_of_valid hinit hzv, run_of_apply hrule]
  rfl

end Realizations

/-- Settles O15: both checks pass and FORM selects R118. -/
theorem procBqDirectForm : Obligations.ProcBqDirectForm := by
  intro x s hinit hzv hform
  exact ⟨_, _, allNaN_nans (slotBq.work s), exec_procBq_of_realization hinit hzv hform (bqDirect_apply x _)⟩

/-- Settles O16: both checks pass and FORM selects R119. -/
theorem procBqCanonicalForm : Obligations.ProcBqCanonicalForm := by
  intro x s hinit hzv hform
  exact ⟨_, _, allNaN_nans (slotBq.work s), exec_procBq_of_realization hinit hzv hform (bqCanon_apply x _)⟩

/-- Settles O17: both checks pass and FORM selects R120. -/
theorem procBqTransposedDirectForm : Obligations.ProcBqTransposedDirectForm := by
  intro x s hinit hzv hform
  exact ⟨_, _, allNaN_nans (slotBq.work s), exec_procBq_of_realization hinit hzv hform (bqTransDirect_apply x _)⟩

/-- Settles O18: both checks pass and FORM selects R121. -/
theorem procBqTransposedCanonicalForm : Obligations.ProcBqTransposedCanonicalForm := by
  intro x s hinit hzv hform
  exact ⟨_, _, allNaN_nans (slotBq.work s), exec_procBq_of_realization hinit hzv hform (bqTransCanon_apply x _)⟩

/-- Settles O20: each of the commands responds and does nothing else, whatever INIT is. -/
theorem parameterAndFaultReadback : Obligations.ParameterAndFaultReadback := by
  intro s
  have hwide : (s.flt.setWidth 64).toNat = s.flt.toNat := BitVec.toNat_setWidth_of_le (by decide)
  exact ⟨rfl, rfl, rfl, rfl, rfl, rfl, rfl, rfl, rfl, _, hwide, rfl⟩

end Sys2Proof.Machine
end

section
/-! PROOFS. O23 and O24, the integrator stages ZLP and ZHP. The gains and the stage step are stated once for both kinds of
stage, as functions of the NaNs of their operations; the rules of the two units then differ in the kind and the slot
only. -/

namespace Sys2Proof.Machine

section Gains

variable {U : Type}

/-- R132: the gains that FC and SR give; `n` are the NaNs of the operations. -/
def gainsOf (kind : StageKind) (n : Nat → F64) (fc sr : F64) : Gains :=
  let gs := Config.tan (F64.div (n 1) (F64.mul (n 0) cPi fc) sr)
  let den := F64.add (n 2) fOne gs
  let gr := F64.div (n 3) fOne den
  match kind with
  | .lp => ⟨gs, F64.div (n 4) gs den, gr⟩
  | .hp => ⟨gs, gr, gr⟩

/-- The number of operations of R132: the high-pass stage does not divide for GG. -/
def StageKind.gainOps : StageKind → Nat
  | .lp => 5
  | .hp => 4

theorem zdfGains_apply (kind : StageKind) (fc sr : F64) (w : Work U) :
    zdfGains kind fc sr w = (gainsOf kind w.nans fc sr, { w with draws := w.draws + kind.gainOps }) := by
  cases kind with
  | lp => exact zdfGains_lp_apply fc sr w
  | hp => exact zdfGains_hp_apply fc sr w

/-- R132: the unit with the gains of its FC and SR. -/
def Zdf.withGains (u : Zdf) (kind : StageKind) (n : Nat → F64) : Zdf :=
  let g := gainsOf kind n u.fc u.sr
  { u with gs := g.gs, gg := g.gg, gr := g.gr }

theorem deriveZdf_apply (kind : StageKind) (w : Work Zdf) :
    deriveZdf kind w =
      ((), { w with regs := w.regs.withGains kind w.nans, draws := w.draws + kind.gainOps }) := by
  simp only [deriveZdf, calc_bind, regs_apply, plain_apply, zdfGains_apply, Zdf.withGains]

variable {s : State} {k : Slot Zdf} {fc : F64}

/-- The next state of `RESET` on either unit (R133, R134). -/
theorem run_resetZdf (k : Slot Zdf) (kind : StageKind) (sr : F64) (s : State) :
    s.run k (ruleResetZdf kind sr) =
      ({ k.put (Zdf.withGains { k.get s with sr := sr, s := fZero, init := true } kind (k.work s).nans) s with
        draws := s.draws.set k.unit (s.draws.get k.unit + kind.gainOps), flt := s.flt }).respond [] := by
  refine run_of_noFlag ?_
  rw [ruleResetZdf_apply, deriveZdf_apply]
  rfl

/-- The next state of `SETP` before the first `RESET` (R135, R136): "With INIT = 0 only FC is stored." -/
theorem run_setpZdf_of_uninit (kind : StageKind) (hi : (k.get s).init = false)
    (hput : ∀ u, { k.put u s with draws := s.draws, flt := s.flt } = k.put u s) :
    s.run k (ruleSetpZdf kind fc) = (k.put { k.get s with fc := fc } s).respond [] := by
  have hinit : ¬ (k.get s).init = true := ne_true_of_eq_false hi
  exact run_of_regs (hput _) ((ruleSetpZdf_apply kind fc (k.work s)).trans (congrArg _ (if_neg hinit)))

/-- The next state of `SETP` on an initialised unit (R135, R136). -/
theorem run_setpZdf_of_init (kind : StageKind) (hi : (k.get s).init = true) :
    s.run k (ruleSetpZdf kind fc) =
      ({ k.put (Zdf.withGains { k.get s with fc := fc } kind (k.work s).nans) s with
        draws := s.draws.set k.unit (s.draws.get k.unit + kind.gainOps), flt := s.flt }).respond [] := by
  have hrule : ruleSetpZdf kind fc (k.work s) =
      ([], (deriveZdf kind { k.work s with regs := { k.get s with fc := fc } }).2) :=
    (ruleSetpZdf_apply kind fc (k.work s)).trans (congrArg _ (if_pos hi))
  refine run_of_noFlag ?_
  rw [hrule, deriveZdf_apply]
  rfl

end Gains

/-- Settles O23: each unit runs the rule of its kind on its slot. -/
theorem zdfResetAndParameters : Obligations.ZdfResetAndParameters := by
  intro sr fc s
  refine ⟨?resetLp, fun hi => ?storedLp, fun hi => ?derivedLp, ?resetHp, fun hi => ?storedHp, fun hi => ?derivedHp⟩
  case resetLp => exact ⟨_, _, allNaN_nans (slotZlp.work s), congrArg _ (run_resetZdf slotZlp .lp sr s)⟩
  case storedLp => exact congrArg _ (run_setpZdf_of_uninit (k := slotZlp) .lp hi fun _ => rfl)
  case derivedLp => exact ⟨_, _, allNaN_nans (slotZlp.work s), congrArg _ (run_setpZdf_of_init (k := slotZlp) .lp hi)⟩
  case resetHp => exact ⟨_, _, allNaN_nans (slotZhp.work s), congrArg _ (run_resetZdf slotZhp .hp sr s)⟩
  case storedHp => exact congrArg _ (run_setpZdf_of_uninit (k := slotZhp) .hp hi fun _ => rfl)
  case derivedHp => exact ⟨_, _, allNaN_nans (slotZhp.work s), congrArg _ (run_setpZdf_of_init (k := slotZhp) .hp hi)⟩

section StageStep

variable {U : Type}

/-- What a stage step computes: its output and the state it stores. -/
structure StageResult where
  output : F64
  state : F64

/-- R131: one step of a stage with gain `g` from the state `old`; `n` are the NaNs of the operations. -/
def stageResult (kind : StageKind) (n : Nat → F64) (g old x : F64) : StageResult :=
  match kind with
  | .lp =>
    let v := F64.mul (n 1) g (F64.sub (n 0) x old)
    let y := (F64.add (n 2) v old).flush
    ⟨y, (F64.add (n 3) y v).flush⟩
  | .hp =>
    let y := (F64.mul (n 1) g (F64.sub (n 0) x old)).flush
    let t := F64.sub (n 2) x y
    ⟨y, (F64.sub (n 4) (F64.add (n 3) t t) old).flush⟩

/-- The number of operations of R131. -/
def StageKind.stepOps : StageKind → Nat
  | .lp => 4
  | .hp => 5

theorem stage_apply (kind : StageKind) (g : F64) (r : Reg U) (x : F64) (w : Work U) :
    stage kind g r x w =
      let p := stageResult kind w.nans g (r.get w.regs) x
      (p.output, { w with
        regs := r.set p.state w.regs, draws := w.draws + kind.stepOps, flags := w.flags ||| nfFlag p.state }) := by
  cases kind with
  | lp => exact stageLp_apply g r x w
  | hp => exact stageHp_apply g r x w

/-- The output of a stage is flushed already, so that `out` returns it as it is (R12, R14). -/
theorem stageResult_output_flush (kind : StageKind) (n : Nat → F64) (g old x : F64) :
    (stageResult kind n g old x).output.flush = (stageResult kind n g old x).output := by
  cases kind with
  | lp => exact flush_flush _
  | hp => exact flush_flush _

/-- R137, R138: one stage step on S with the gain GG, its output returned. -/
theorem ruleProcZdf_apply (kind : StageKind) (x : F64) (w : Work Zdf) :
    ruleProcZdf kind x w =
      let p := stageResult kind w.nans w.regs.gg w.regs.s x
      ([bits64 p.output], { w with
        regs := { w.regs with s := p.state }, draws := w.draws + kind.stepOps
        flags := w.flags ||| nfAny [p.state, p.output] }) := by
  simp only [ruleProcZdf, calc_bind, calc_pure, regs_apply, stage_apply, out_apply, stageResult_output_flush, regS,
    or_nfAny_cons, nfAny_nil, or_none]

/-- The next state of `PROC` on an initialised unit (R137, R138). -/
theorem runInit_procZdf (k : Slot Zdf) (kind : StageKind) (x : F64) {init : Bool} (hi : init = true) (s : State) :
    s.runInit k init (ruleProcZdf kind x) =
      let p := stageResult kind (k.work s).nans (k.get s).gg (k.get s).s x
      ({ k.put { k.get s with s := p.state } s with
        draws := s.draws.set k.unit (s.draws.get k.unit + kind.stepOps)
        flt := s.flt ||| nfAny [p.state, p.output] }).respond [bits64 p.output] := by
  rw [State.runInit, if_pos hi]
  exact run_of_apply (ruleProcZdf_apply kind x (k.work s))

end StageStep

/-- Settles O24: INIT passes the check and each unit runs one stage step of its kind on its slot. -/
theorem procZdfRunsOneStage : Obligations.ProcZdfRunsOneStage := by
  intro x s
  refine ⟨fun hi => ?lp, fun hi => ?hp⟩
  case lp => exact ⟨_, _, allNaN_nans (slotZlp.work s), congrArg _ (runInit_procZdf slotZlp .lp x hi s)⟩
  case hp => exact ⟨_, _, allNaN_nans (slotZhp.work s), congrArg _ (runInit_procZdf slotZhp .hp x hi s)⟩

end Sys2Proof.Machine
end

section
/-! PROOFS. O25 to O29, O57 and O60, the networks LLP, LHP and SKH. As for the single stages, the derivation, the loop
input and the run through the stages are stated once, for both kinds of ladder, as functions of the NaNs of their
operations. At zero resonance the solved loop input is the operand; a ladder's run through its stages is then that of
four single stages, because a command that stores no NaN performs no operation whose result depends on a draw. -/

namespace Sys2Proof.Machine

section Derivations

variable {U : Type} {s : State} {k : Slot U} {c : Calc U (List Word64)} {derive : Calc U Unit}
  {f : U → (Nat → F64) → U} {ops : Nat} {init : Bool} {v : U}

/-- A derivation performs `ops` operations, replaces the registers as `f` says and sets no flag. -/
def Derives (derive : Calc U Unit) (f : U → (Nat → F64) → U) (ops : Nat) : Prop :=
  ∀ w, derive w = ((), { w with regs := f w.regs w.nans, draws := w.draws + ops })

/-- The next state of a rule that writes `v` and then derives: the shape of `RESET` (R147, R158). -/
theorem run_of_derives (hd : Derives derive f ops)
    (hc : c (k.work s) = ([], (derive { k.work s with regs := v }).2)) :
    s.run k c = ({ k.put (f v (k.work s).nans) s with
      draws := s.draws.set k.unit (s.draws.get k.unit + ops), flt := s.flt }).respond [] := by
  refine run_of_noFlag ?_
  rw [hc, hd]
  rfl

/-- The next state of a `SETP` rule on an initialised unit (R149, R159). -/
theorem run_setp_of_init (hd : Derives derive f ops) (hi : init = true)
    (hc : c (k.work s) = ([], if init then (derive { k.work s with regs := v }).2 else { k.work s with regs := v })) :
    s.run k c = ({ k.put (f v (k.work s).nans) s with
      draws := s.draws.set k.unit (s.draws.get k.unit + ops), flt := s.flt }).respond [] :=
  run_of_derives hd (hc.trans (congrArg _ (if_pos hi)))

/-- The next state of a `SETP` rule before the first `RESET` (R149, R159). -/
theorem run_setp_of_uninit (hi : init = false) (hput : { k.put v s with draws := s.draws, flt := s.flt } = k.put v s)
    (hc : c (k.work s) = ([], if init then (derive { k.work s with regs := v }).2 else { k.work s with regs := v })) :
    s.run k c = (k.put v s).respond [] :=
  run_of_regs hput (hc.trans (congrArg _ (if_neg (ne_true_of_eq_false hi))))

/-- R146: the ladder with the gains, the powers and K of its FC, RES and SR. -/
def Ladder.withLoop (kind : StageKind) (u : Ladder) (n : Nat → F64) : Ladder :=
  let g := gainsOf kind n u.fc u.sr
  let g2 := F64.mul (n kind.gainOps) g.gg g.gg
  let g3 := F64.mul (n (kind.gainOps + 1)) g2 g.gg
  let g4 := F64.mul (n (kind.gainOps + 2)) g3 g.gg
  let k := F64.mul (n (kind.gainOps + 3)) cKlad u.res
  { u with gs := g.gs, gg := g.gg, gr := g.gr, g2 := g2, g3 := g3, g4 := g4, k := k }

theorem deriveLad_derives (kind : StageKind) :
    Derives (deriveLad kind) (Ladder.withLoop kind) (kind.gainOps + 4) := by
  intro w
  simp only [deriveLad, calc_bind, regs_apply, zdfGains_apply, fmul_apply, plain_apply, Work.tick, Work.nan,
    Ladder.withLoop, Work.nans, Nat.add_assoc]

/-- R160: SKH with the coefficients of its FC, RES and SR. -/
def Skh.withCoefficients (u : Skh) (n : Nat → F64) : Skh :=
  let gs := Config.tan (F64.div (n 1) (F64.mul (n 0) cPi u.fc) u.sr)
  let gg := F64.div (n 3) fOne (F64.add (n 2) fOne gs)
  let gm := F64.sub (n 5) gg (F64.mul (n 4) gg gg)
  let k := F64.mul (n 6) cKsk u.res
  { u with gs := gs, gg := gg, gm := gm, k := k }

theorem deriveSkh_derives : Derives deriveSkh Skh.withCoefficients 7 := fun _ => rfl

end Derivations

/-- Settles O25: each ladder runs the rule of its kind on its slot. -/
theorem ladderResetAndParameters : Obligations.LadderResetAndParameters := by
  intro sr fc res s
  have hlp := deriveLad_derives .lp
  have hhp := deriveLad_derives .hp
  refine ⟨?resetLp, fun hi => ?storedLp, fun hi => ?derivedLp, ?resetHp, fun hi => ?storedHp, fun hi => ?derivedHp⟩
  case resetLp =>
    exact ⟨_, _, allNaN_nans (slotLlp.work s), congrArg _ (run_of_derives hlp (ruleResetLad_apply .lp sr _))⟩
  case storedLp => exact congrArg _ (run_setp_of_uninit (k := slotLlp) hi rfl (ruleSetpLad_apply .lp fc res _))
  case derivedLp =>
    have hrule := ruleSetpLad_apply .lp fc res (slotLlp.work s)
    exact ⟨_, _, allNaN_nans (slotLlp.work s), congrArg _ (run_setp_of_init (k := slotLlp) hlp hi hrule)⟩
  case resetHp =>
    exact ⟨_, _, allNaN_nans (slotLhp.work s), congrArg _ (run_of_derives hhp (ruleResetLad_apply .hp sr _))⟩
  case storedHp => exact congrArg _ (run_setp_of_uninit (k := slotLhp) hi rfl (ruleSetpLad_apply .hp fc res _))
  case derivedHp =>
    have hrule := ruleSetpLad_apply .hp fc res (slotLhp.work s)
    exact ⟨_, _, allNaN_nans (slotLhp.work s), congrArg _ (run_setp_of_init (k := slotLhp) hhp hi hrule)⟩

/-- Settles O28: SKH runs the rules of R158 and R159 on its slot. -/
theorem skhResetAndParameters : Obligations.SkhResetAndParameters := by
  intro sr fc res s
  refine ⟨?reset, fun hi => ?stored, fun hi => ?derived⟩
  case reset =>
    exact ⟨_, _, allNaN_nans (slotSkh.work s), congrArg _ (run_of_derives deriveSkh_derives (ruleResetSkh_apply sr _))⟩
  case stored => exact congrArg _ (run_setp_of_uninit (k := slotSkh) hi rfl (ruleSetpSkh_apply fc res _))
  case derived =>
    exact ⟨_, _, allNaN_nans (slotSkh.work s),
      congrArg _ (run_setp_of_init (k := slotSkh) deriveSkh_derives hi (ruleSetpSkh_apply fc res _))⟩

section Sequencing

/-! A command's computation is cut into the solve of its loop and its stages. Each part is computed on its own, with
the results of the part before it as variables: in one piece, the terms of a later stage repeat those of all earlier
ones, and their elaboration does not end in reasonable memory. -/

variable {U : Type} {kind : StageKind} {g x : F64} {r : Reg U} {w : Work U} {p : StageResult} {d : Nat} {v : U}

/-- The NaNs of the operations from the `k`-th on. -/
def later (n : Nat → F64) (k : Nat) : Nat → F64 := fun i => n (k + i)

theorem allNaN_later {n : Nat → F64} (h : AllNaN n) (k : Nat) : AllNaN (later n k) := fun i => h (k + i)

theorem later_eq (n : Nat → F64) (k : Nat) : later n k = fun i => n (k + i) := rfl

theorem nans_eq (w : Work U) : w.nans = fun i => nanAt w.unit (w.draws + i) := rfl

theorem nans_advance (w : Work U) (d : Nat) : Work.nans { w with draws := w.draws + d } = later w.nans d := by
  simp only [nans_eq, later_eq, Nat.add_assoc]

/-- A stage that begins a command's computation, from what it computes. -/
theorem stage_of_result (hp : stageResult kind w.nans g (r.get w.regs) x = p) :
    stage kind g r x w = (p.output, { w with
      regs := r.set p.state w.regs, draws := w.draws + kind.stepOps, flags := w.flags ||| nfFlag p.state }) := by
  rw [stage_apply, hp]

/-- A stage after the first `d` operations of the computation that began with `w`. -/
theorem stage_later_of_result (flags : BitVec 4)
    (hp : stageResult kind (later w.nans d) g (r.get v) x = p) :
    stage kind g r x { w with regs := v, draws := w.draws + d, flags := flags } = (p.output, { w with
      regs := r.set p.state v, draws := w.draws + (d + kind.stepOps), flags := flags ||| nfFlag p.state }) := by
  rw [← hp, stage_apply]
  simp only [nans_eq, later_eq, Nat.add_assoc]

end Sequencing

section Ladders

/-- R152, R153: the state part of a ladder's loop, with its sign flipped in the high-pass ladder. -/
def Ladder.sigma (kind : StageKind) (n : Nat → F64) (c : Ladder) : F64 :=
  let sum := F64.mul (n 6) (F64.add (n 5) (F64.add (n 4) (F64.add (n 2) (F64.mul (n 0) c.g3 c.s1)
    (F64.mul (n 1) c.g2 c.s2)) (F64.mul (n 3) c.gg c.s3)) c.s4) c.gr
  match kind with
  | .lp => sum
  | .hp => sum.neg

/-- R152, R153: the solved loop input of a ladder; twelve operations. -/
def Ladder.loopInput (kind : StageKind) (n : Nat → F64) (c : Ladder) (x : F64) : F64 :=
  F64.div (n 11) (F64.sub (n 8) x (F64.mul (n 7) c.k (c.sigma kind n)))
    (F64.add (n 10) fOne (F64.mul (n 9) c.k c.g4))

/-- What the four stages of a ladder compute. -/
structure Cascade where
  first : StageResult
  second : StageResult
  third : StageResult
  fourth : StageResult

/-- The number of operations of the four stages. -/
def StageKind.cascadeOps (kind : StageKind) : Nat := kind.stepOps + kind.stepOps + kind.stepOps + kind.stepOps

/-- R152, R153: the four stages of a ladder in series; `n` are the NaNs of their operations. -/
def Ladder.cascade (kind : StageKind) (n : Nat → F64) (c : Ladder) (u : F64) : Cascade :=
  let first := stageResult kind n c.gg c.s1 u
  let second := stageResult kind (later n kind.stepOps) c.gg c.s2 first.output
  let third := stageResult kind (later n (kind.stepOps + kind.stepOps)) c.gg c.s3 second.output
  let fourth := stageResult kind (later n (kind.stepOps + kind.stepOps + kind.stepOps)) c.gg c.s4 third.output
  ⟨first, second, third, fourth⟩

/-- The four state registers replaced by what the stages store. -/
def Ladder.withStates (c : Ladder) (p : Cascade) : Ladder :=
  { c with s1 := p.first.state, s2 := p.second.state, s3 := p.third.state, s4 := p.fourth.state }

/-- The values that `PROC` of a ladder stores or returns. -/
def Cascade.values (p : Cascade) : List F64 :=
  [p.first.state, p.second.state, p.third.state, p.fourth.state, p.fourth.output]

theorem ladSigma_apply (kind : StageKind) (w : Work Ladder) :
    ladSigma kind w = (w.regs.sigma kind w.nans, { w with draws := w.draws + 7 }) := by
  cases kind with
  | lp => rfl
  | hp => rfl

/-- The part of R152 and R153 that solves the loop. -/
def ladSolve (kind : StageKind) (c : Ladder) (x : F64) : Calc Ladder F64 := do
  let sigma ← ladSigma kind
  fdiv (← fsub x (← fmul c.k sigma)) (← fadd fOne (← fmul c.k c.g4))

theorem ladSolve_apply (kind : StageKind) (x : F64) (w : Work Ladder) :
    ladSolve kind w.regs x w = (w.regs.loopInput kind w.nans x, { w with draws := w.draws + 12 }) := by
  simp only [ladSolve, calc_bind, ladSigma_apply, fmul_apply, fsub_apply, fadd_apply, fdiv_apply]
  rfl

/-- The part of R152 and R153 that runs the loop input through the stages. -/
def ladStages (kind : StageKind) (g u : F64) : Calc Ladder (List Word64) := do
  let y1 ← stage kind g regL1 u
  let y2 ← stage kind g regL2 y1
  let y3 ← stage kind g regL3 y2
  let y4 ← stage kind g regL4 y3
  return [bits64 (← out y4)]

/-- The four stages one after the other, each on the work the stage before has left. -/
theorem ladStages_of_results {kind : StageKind} {u : F64} {w : Work Ladder} {p : Cascade}
    (h1 : stageResult kind w.nans w.regs.gg w.regs.s1 u = p.first)
    (h2 : stageResult kind (later w.nans kind.stepOps) w.regs.gg w.regs.s2 p.first.output = p.second)
    (h3 : stageResult kind (later w.nans (kind.stepOps + kind.stepOps)) w.regs.gg w.regs.s3 p.second.output = p.third)
    (h4 : stageResult kind (later w.nans (kind.stepOps + kind.stepOps + kind.stepOps)) w.regs.gg w.regs.s4
      p.third.output = p.fourth) :
    ladStages kind w.regs.gg u w =
      ([bits64 p.fourth.output], { w with
        regs := w.regs.withStates p
        draws := w.draws + kind.cascadeOps
        flags := w.flags ||| nfAny p.values }) := by
  have hout : p.fourth.output.flush = p.fourth.output := by
    rw [← h4]
    exact stageResult_output_flush ..
  have run1 := stage_of_result (r := regL1) h1
  have run2 := stage_later_of_result (r := regL2) (v := regL1.set p.first.state w.regs)
    (w.flags ||| nfFlag p.first.state) h2
  have run3 := stage_later_of_result (r := regL3) (v := regL2.set p.second.state (regL1.set p.first.state w.regs))
    (w.flags ||| nfFlag p.first.state ||| nfFlag p.second.state) h3
  have run4 := stage_later_of_result (r := regL4)
    (v := regL3.set p.third.state (regL2.set p.second.state (regL1.set p.first.state w.regs)))
    (w.flags ||| nfFlag p.first.state ||| nfFlag p.second.state ||| nfFlag p.third.state) h4
  rw [ladStages, calc_bind, run1, calc_bind, run2, calc_bind, run3, calc_bind, run4, calc_bind, out_apply, hout]
  simp only [Cascade.values, or_nfAny_cons, nfAny_nil, or_none]
  rfl

theorem ladStages_apply (kind : StageKind) (u : F64) (w : Work Ladder) :
    ladStages kind w.regs.gg u w =
      let p := w.regs.cascade kind w.nans u
      ([bits64 p.fourth.output], { w with
        regs := w.regs.withStates p
        draws := w.draws + kind.cascadeOps
        flags := w.flags ||| nfAny p.values }) :=
  ladStages_of_results (p := w.regs.cascade kind w.nans u) rfl rfl rfl rfl

/-- R152, R153: the loop input is solved from the states as they are, then runs through the stages. -/
theorem ruleProcLad_apply (kind : StageKind) (x : F64) (w : Work Ladder) :
    ruleProcLad kind x w =
      let p := w.regs.cascade kind (later w.nans 12) (w.regs.loopInput kind w.nans x)
      ([bits64 p.fourth.output], { w with
        regs := w.regs.withStates p
        draws := w.draws + 12 + kind.cascadeOps
        flags := w.flags ||| nfAny p.values }) := by
  have hparts : ruleProcLad kind x = regs >>= fun c => ladSolve kind c x >>= fun u => ladStages kind c.gg u := by
    simp only [ruleProcLad, ladSolve, ladStages, bind_assoc]
  have hstages := ladStages_apply kind (w.regs.loopInput kind w.nans x) { w with draws := w.draws + 12 }
  rw [nans_advance] at hstages
  rw [hparts, calc_bind, regs_apply, calc_bind, ladSolve_apply]
  exact hstages

/-- The next state of `PROC` on an initialised ladder (R152, R153). -/
theorem runInit_procLad (k : Slot Ladder) (kind : StageKind) (x : F64) {init : Bool} (hi : init = true) (s : State) :
    s.runInit k init (ruleProcLad kind x) =
      let n := (k.work s).nans
      let p := (k.get s).cascade kind (later n 12) ((k.get s).loopInput kind n x)
      ({ k.put ((k.get s).withStates p) s with
        draws := s.draws.set k.unit (s.draws.get k.unit + 12 + kind.cascadeOps)
        flt := s.flt ||| nfAny p.values }).respond [bits64 p.fourth.output] := by
  rw [State.runInit, if_pos hi]
  exact run_of_apply (ruleProcLad_apply kind x (k.work s))

end Ladders

/-- Settles O26: INIT passes the check and LLP runs the low-pass rule on its slot. -/
theorem procLlpSolvesTheLoop : Obligations.ProcLlpSolvesTheLoop := by
  intro x s hi
  exact ⟨_, _, allNaN_nans (slotLlp.work s), congrArg _ (runInit_procLad slotLlp .lp x hi s)⟩

/-- Settles O27: INIT passes the check and LHP runs the high-pass rule on its slot. -/
theorem procLhpSolvesTheLoop : Obligations.ProcLhpSolvesTheLoop := by
  intro x s hi
  exact ⟨_, _, allNaN_nans (slotLhp.work s), congrArg _ (runInit_procLad slotLhp .hp x hi s)⟩

section SallenKey

/-- R161: the solved loop input of SKH; eight operations. -/
def Skh.loopInput (n : Nat → F64) (c : Skh) (x : F64) : F64 :=
  let sigma := F64.sub (n 2) (F64.mul (n 0) c.gm c.s1) (F64.mul (n 1) c.gg c.s2)
  F64.div (n 7) (F64.sub (n 4) x (F64.mul (n 3) c.k sigma)) (F64.sub (n 6) fOne (F64.mul (n 5) c.k c.gm))

/-- R161: the first high-pass stage of SKH, on the input `us`; `n` are the NaNs of the stages' operations. -/
def Skh.firstStage (n : Nat → F64) (c : Skh) (us : F64) : StageResult := stageResult .hp n c.gg c.s1 us

/-- R161: the second stage, fed by the first. -/
def Skh.secondStage (n : Nat → F64) (c : Skh) (us : F64) : StageResult :=
  stageResult .hp (later n StageKind.hp.stepOps) c.gg c.s2 (c.firstStage n us).output

/-- The part of R161 that solves the loop. -/
def skhSolve (c : Skh) (x : F64) : Calc Skh F64 := do
  let sigma ← fsub (← fmul c.gm c.s1) (← fmul c.gg c.s2)
  fdiv (← fsub x (← fmul c.k sigma)) (← fsub fOne (← fmul c.k c.gm))

theorem skhSolve_apply (c : Skh) (x : F64) (w : Work Skh) :
    skhSolve c x w = (c.loopInput w.nans x, { w with draws := w.draws + 8 }) := rfl

/-- The part of R161 that runs the saturated loop input through the stages. -/
def skhStages (g us : F64) : Calc Skh (List Word64) := do
  let y1 ← stage .hp g regK1 us
  let y2 ← stage .hp g regK2 y1
  return [bits64 (← out y2)]

theorem skhStages_of_results {us : F64} {w : Work Skh} {p q : StageResult}
    (h1 : stageResult .hp w.nans w.regs.gg w.regs.s1 us = p)
    (h2 : stageResult .hp (later w.nans StageKind.hp.stepOps) w.regs.gg w.regs.s2 p.output = q) :
    skhStages w.regs.gg us w =
      ([bits64 q.output], { w with
        regs := { w.regs with s1 := p.state, s2 := q.state }, draws := w.draws + 10
        flags := w.flags ||| nfAny [p.state, q.state, q.output] }) := by
  have hout : q.output.flush = q.output := by
    rw [← h2]
    exact stageResult_output_flush ..
  have run1 := stage_of_result (r := regK1) h1
  have run2 := stage_later_of_result (r := regK2) (v := regK1.set p.state w.regs) (w.flags ||| nfFlag p.state) h2
  rw [skhStages, calc_bind, run1, calc_bind, run2, calc_bind, out_apply, hout]
  simp only [or_nfAny_cons, nfAny_nil, or_none]
  rfl

/-- R161: the loop is solved, the saturator is applied to its input, then come the two stages. -/
theorem ruleProcSkh_apply (x : F64) (w : Work Skh) :
    ruleProcSkh x w =
      let us := Config.sat (w.regs.loopInput w.nans x)
      let p := w.regs.firstStage (later w.nans 8) us
      let q := w.regs.secondStage (later w.nans 8) us
      ([bits64 q.output], { w with
        regs := { w.regs with s1 := p.state, s2 := q.state }, draws := w.draws + 8 + 10
        flags := w.flags ||| nfAny [p.state, q.state, q.output] }) := by
  have hparts : ruleProcSkh x =
      regs >>= fun c => skhSolve c x >>= fun u => skhStages c.gg (Config.sat u) := by
    simp only [ruleProcSkh, skhSolve, skhStages, bind_assoc]
  have hstages := skhStages_of_results (us := Config.sat (w.regs.loopInput w.nans x))
    (w := { w with draws := w.draws + 8 }) rfl rfl
  rw [nans_advance] at hstages
  rw [hparts, calc_bind, regs_apply, calc_bind, skhSolve_apply]
  exact hstages

/-- The next state of `PROC.SKH` on an initialised unit (R161), from its solved loop input. -/
theorem exec_procSkh_of_loopInput {s : State} {x u : F64} (hi : s.skh.init = true)
    (hu : s.skh.loopInput (slotSkh.work s).nans x = u) :
    exec (.procSkh x) s =
      let n := later (slotSkh.work s).nans 8
      let p := s.skh.firstStage n (Config.sat u)
      let q := s.skh.secondStage n (Config.sat u)
      .next { s with
        skh := { s.skh with s1 := p.state, s2 := q.state }, flt := s.flt ||| nfAny [p.state, q.state, q.output]
        draws := s.draws.set .skh (s.draws.skh + 8 + 10), responses := ⟨.ok, [bits64 q.output]⟩ :: s.responses } := by
  have hexec : exec (.procSkh x) s = .next (s.runInit slotSkh s.skh.init (ruleProcSkh x)) := rfl
  rw [hexec, State.runInit, if_pos hi, run_of_apply (ruleProcSkh_apply x (slotSkh.work s)), ← hu]
  rfl

end SallenKey

/-- Settles O29: INIT passes the check and SKH runs R161 on its slot. -/
theorem procSkhSolvesTheLoopAndSaturates : Obligations.ProcSkhSolvesTheLoopAndSaturates := by
  intro x s hi
  exact ⟨_, _, allNaN_nans (slotSkh.work s), exec_procSkh_of_loopInput hi rfl⟩

section Draws

/-- How an arithmetic operation uses the NaN drawn for it (R10): a NaN operand makes it the result, and a result that
is not the drawn NaN does not depend on it. -/
structure UsesDraw (op : F64 → F64 → F64 → F64) : Prop where
  eq_draw_of_isNaN : ∀ n a b, a.isNaN = true ∨ b.isNaN = true → op n a b = n
  eq_draw_or_const : ∀ n m a b, op n a b = n ∨ op m a b = op n a b

theorem add_usesDraw : UsesDraw F64.add where
  eq_draw_of_isNaN n _ _ h := add_of_isNaN n h
  eq_draw_or_const n m a b := by
    unfold F64.add
    split_ifs
    exacts [.inl rfl, .inl rfl, .inr rfl, .inr rfl, .inr rfl]

theorem sub_usesDraw : UsesDraw F64.sub where
  eq_draw_of_isNaN n a b h := add_usesDraw.eq_draw_of_isNaN n a b.neg (by simpa using h)
  eq_draw_or_const n m a b := add_usesDraw.eq_draw_or_const n m a b.neg

theorem mul_usesDraw : UsesDraw F64.mul where
  eq_draw_of_isNaN n _ _ h := mul_of_isNaN n h
  eq_draw_or_const n m a b := by
    unfold F64.mul
    split_ifs
    exacts [.inl rfl, .inl rfl, .inr rfl, .inr rfl]

theorem div_usesDraw : UsesDraw F64.div where
  eq_draw_of_isNaN n _ _ h := div_of_isNaN n h
  eq_draw_or_const n m a b := by
    unfold F64.div
    split_ifs
    exacts [.inl rfl, .inl rfl, .inr rfl, .inr rfl, .inl rfl, .inr rfl, .inr rfl]

variable {op : F64 → F64 → F64 → F64} {n a b : F64}

/-- An operation that answers no NaN has no NaN operand (R10). -/
theorem UsesDraw.operands (h : UsesDraw op) (hn : n.isNaN = true) (hr : (op n a b).isNaN = false) :
    a.isNaN = false ∧ b.isNaN = false := by
  have hnone : ¬ (a.isNaN = true ∨ b.isNaN = true) := by
    intro hnan
    simp [h.eq_draw_of_isNaN n a b hnan, hn] at hr
  simpa using hnone

/-- An operation that answers no NaN answers the same for every draw. -/
theorem UsesDraw.eq_of_draws (h : UsesDraw op) (hn : n.isNaN = true) (hr : (op n a b).isNaN = false) (m : F64) :
    op m a b = op n a b := by
  rcases h.eq_draw_or_const n m a b with hdraw | hconst
  · simp [hdraw, hn] at hr
  · exact hconst

@[simp] theorem flush_isNaN (v : F64) : v.flush.isNaN = v.isNaN := by
  rw [flush_eq]
  split
  · next h =>
    have hexp : v.expField = 0 := by simp_all [F64.isSubnormal]
    have hnan : v.isNaN = false := by simp [F64.isNaN, hexp]
    rw [hnan]
    decide
  · rfl

variable {n : Nat → F64} {g old x : F64}

/-- A low-pass stage that stores no NaN was fed no NaN and computes the same for every draw. -/
theorem stageResult_lp_of_not_nan (hn : AllNaN n) (h : (stageResult .lp n g old x).state.isNaN = false) :
    x.isNaN = false ∧ ∀ m, stageResult .lp m g old x = stageResult .lp n g old x := by
  simp only [stageResult, flush_isNaN] at h
  obtain ⟨hy, hv⟩ := add_usesDraw.operands (hn 3) h
  rw [flush_isNaN] at hy
  obtain ⟨-, hd⟩ := mul_usesDraw.operands (hn 1) hv
  obtain ⟨hx, -⟩ := sub_usesDraw.operands (hn 0) hd
  refine ⟨hx, fun m => ?_⟩
  simp only [stageResult, sub_usesDraw.eq_of_draws (hn 0) hd (m 0), mul_usesDraw.eq_of_draws (hn 1) hv (m 1),
    add_usesDraw.eq_of_draws (hn 2) hy (m 2), add_usesDraw.eq_of_draws (hn 3) h (m 3)]

/-- A high-pass stage that stores no NaN was fed no NaN and computes the same for every draw. -/
theorem stageResult_hp_of_not_nan (hn : AllNaN n) (h : (stageResult .hp n g old x).state.isNaN = false) :
    x.isNaN = false ∧ ∀ m, stageResult .hp m g old x = stageResult .hp n g old x := by
  simp only [stageResult, flush_isNaN] at h
  obtain ⟨htt, -⟩ := sub_usesDraw.operands (hn 4) h
  obtain ⟨ht, -⟩ := add_usesDraw.operands (hn 3) htt
  obtain ⟨hx, hy⟩ := sub_usesDraw.operands (hn 2) ht
  rw [flush_isNaN] at hy
  obtain ⟨-, hd⟩ := mul_usesDraw.operands (hn 1) hy
  refine ⟨hx, fun m => ?_⟩
  simp only [stageResult, sub_usesDraw.eq_of_draws (hn 0) hd (m 0), mul_usesDraw.eq_of_draws (hn 1) hy (m 1),
    sub_usesDraw.eq_of_draws (hn 2) ht (m 2), add_usesDraw.eq_of_draws (hn 3) htt (m 3),
    sub_usesDraw.eq_of_draws (hn 4) h (m 4)]

theorem stageResult_of_not_nan {kind : StageKind} (hn : AllNaN n)
    (h : (stageResult kind n g old x).state.isNaN = false) :
    x.isNaN = false ∧ ∀ m, stageResult kind m g old x = stageResult kind n g old x := by
  cases kind with
  | lp => exact stageResult_lp_of_not_nan hn h
  | hp => exact stageResult_hp_of_not_nan hn h

end Draws

/-- Where NF is not set, every stored or returned value is finite (R239). -/
theorem finite_of_nfAny {f : BitVec 4} {vs : List F64} (h : (f ||| nfAny vs).getLsbD 3 = false) :
    ∀ v ∈ vs, v.finite = true := by
  cases hall : vs.all F64.finite with
  | true => exact List.all_eq_true.1 hall
  | false => simp [nfAny, hall] at h

section ZeroResonance

variable {nan x a : F64}

/-- `+0.0 * a`, where it is no NaN, has a finite `a` (R8, R10). -/
theorem finite_of_posZero_mul (hnan : nan.isNaN = true) (h : (F64.mul nan fZero a).isNaN = false) :
    a.finite = true := by
  obtain ⟨-, ha⟩ := mul_usesDraw.operands hnan h
  have hinf : a.isInf = false := by
    by_contra hi
    rw [mul_inf nan (.inr (by simpa using hi)) (by decide) ha] at h
    simp [hnan, show fZero.isZero = true by decide] at h
  simp_all [F64.isNaN, F64.isInf, F64.finite]

/-- `x - 0.0 * a` is `x` (R154). -/
theorem sub_posZero_mul (n m : F64) (ha : a.finite = true) (hn : x.isNaN = false) (hx : x ≠ F64.zero true) :
    F64.sub n x (F64.mul m fZero a) = x := by
  have hzero : F64.mul m fZero a = F64.zero a.sign := f64_mul_posZero m a ha
  rw [hzero, f64_sub_zero n x a.sign hn hx]

/-- `x + 0.0 * a` is `x` (R154). -/
theorem add_posZero_mul (n m : F64) (ha : a.finite = true) (hn : x.isNaN = false) (hx : x ≠ F64.zero true) :
    F64.add n x (F64.mul m fZero a) = x := by
  have hzero : F64.mul m fZero a = F64.zero a.sign := f64_mul_posZero m a ha
  have hneg : F64.zero a.sign = (F64.zero (!a.sign)).neg := by cases a.sign <;> decide
  have hsub : F64.add n x (F64.zero a.sign) = F64.sub n x (F64.zero (!a.sign)) := congrArg _ hneg
  rw [hzero, hsub, f64_sub_zero n x _ hn hx]

/-- R154: where the solved loop input of a ladder with K = +0.0 is no NaN, it is the operand. -/
theorem ladder_loopInput_of_zero_resonance {kind : StageKind} {n : Nat → F64} {c : Ladder} (hn : AllNaN n)
    (hk : c.k = fZero) (hx : x ≠ F64.zero true) (h : (c.loopInput kind n x).isNaN = false) :
    c.loopInput kind n x = x := by
  simp only [Ladder.loopInput, hk] at h ⊢
  obtain ⟨hnum, hden⟩ := div_usesDraw.operands (hn 11) h
  obtain ⟨hnan, hloop⟩ := sub_usesDraw.operands (hn 8) hnum
  obtain ⟨-, hgain⟩ := add_usesDraw.operands (hn 10) hden
  rw [sub_posZero_mul _ _ (finite_of_posZero_mul (hn 7) hloop) hnan hx,
    add_posZero_mul _ _ (finite_of_posZero_mul (hn 9) hgain) (by decide) (by decide)]
  exact f64_div_one _ x hnan

/-- R154, R164: where the state part of SKH's loop and GM are finite and K = +0.0, the solved loop input is the
operand. -/
theorem skh_loopInput_of_zero_resonance {n : Nat → F64} {c : Skh} (hk : c.k = fZero) (hn : x.isNaN = false)
    (hx : x ≠ F64.zero true) (hgm : c.gm.finite = true)
    (hsigma : (F64.sub (n 2) (F64.mul (n 0) c.gm c.s1) (F64.mul (n 1) c.gg c.s2)).finite = true) :
    c.loopInput n x = x := by
  simp only [Skh.loopInput, hk]
  rw [sub_posZero_mul _ _ hsigma hn hx, sub_posZero_mul _ _ hgm (by decide) (by decide)]
  exact f64_div_one _ x hn

end ZeroResonance

/-- Settles O60: with K = +0.0 both products of the solve are zeros, so that the loop input is the operand. -/
theorem skhAtZeroResonanceFiltersTheSaturatedInput : Obligations.SkhAtZeroResonanceFiltersTheSaturatedInput := by
  intro x s hi hk hn hx hgm hsigma
  have hnans := allNaN_nans (slotSkh.work s)
  have hu : s.skh.loopInput (slotSkh.work s).nans x = x :=
    skh_loopInput_of_zero_resonance hk hn hx hgm (hsigma _ hnans)
  exact ⟨_, _, allNaN_later hnans 8, exec_procSkh_of_loopInput hi hu⟩

section SeriesOfStages

variable {kind : StageKind} {g x : F64} {rs : List Response} {proc : F64 → Instr} {unit : F64 → State}
  {stored : State → F64} {n : Nat → F64} {c : Ladder}

/-- R137, R138 in the terms of the reduction: where a stage step of this kind stores no NaN, the command `proc` on a unit
whose state is `old` answers the output of the step, whatever its own draws are, and leaves the step's state where
`stored` reads it. -/
def AnswersStage (kind : StageKind) (g : F64) (rs : List Response) (proc : F64 → Instr) (unit : F64 → State)
    (stored : State → F64) : Prop :=
  ∀ (n : Nat → F64) (old x : F64), AllNaN n → (stageResult kind n g old x).state.isNaN = false →
    ∃ t, exec (proc x) (unit old) = .next t ∧
      t.responses = ⟨.ok, [bits64 (stageResult kind n g old x).output]⟩ :: rs ∧
      (stageResult kind n g old x).state = stored t

/-- An initialised ZLP with the gain `g` and the state `v`. -/
def zlpWith (s : State) (g v : F64) : State := { s with zlp := { s.zlp with gg := g, s := v, init := true } }

/-- An initialised ZHP with the gain `g` and the state `v`. -/
def zhpWith (s : State) (g v : F64) : State := { s with zhp := { s.zhp with gg := g, s := v, init := true } }

theorem zlp_answersStage (s : State) (g : F64) :
    AnswersStage .lp g s.responses .procZlp (zlpWith s g) (fun t => t.zlp.s) := by
  intro n old x hn h
  rw [← (stageResult_of_not_nan hn h).2 (slotZlp.work s).nans]
  exact ⟨_, congrArg Host.Outcome.next (runInit_procZdf slotZlp .lp x rfl (zlpWith s g old)), rfl, rfl⟩

theorem zhp_answersStage (s : State) (g : F64) :
    AnswersStage .hp g s.responses .procZhp (zhpWith s g) (fun t => t.zhp.s) := by
  intro n old x hn h
  rw [← (stageResult_of_not_nan hn h).2 (slotZhp.work s).nans]
  exact ⟨_, congrArg Host.Outcome.next (runInit_procZdf slotZhp .hp x rfl (zhpWith s g old)), rfl, rfl⟩

/-- Four commands in series answer and store what the four stages of a ladder do, where those store no NaN. -/
theorem series_of_answersStage (hz : AnswersStage kind c.gg rs proc unit stored) (hn : AllNaN n)
    (h : ∀ v ∈ (c.cascade kind n x).values, v.finite = true) :
    let p := c.cascade kind n x
    ∃ (y1 y2 y3 y4 : F64) (t1 t2 t3 t4 : State),
      exec (proc x) (unit c.s1) = .next t1 ∧ t1.responses = ⟨.ok, [bits64 y1]⟩ :: rs ∧
        p.first.state = stored t1 ∧
      exec (proc y1) (unit c.s2) = .next t2 ∧ t2.responses = ⟨.ok, [bits64 y2]⟩ :: rs ∧
        p.second.state = stored t2 ∧
      exec (proc y2) (unit c.s3) = .next t3 ∧ t3.responses = ⟨.ok, [bits64 y3]⟩ :: rs ∧
        p.third.state = stored t3 ∧
      exec (proc y3) (unit c.s4) = .next t4 ∧ t4.responses = ⟨.ok, [bits64 y4]⟩ :: rs ∧
        p.fourth.state = stored t4 ∧
      (⟨.ok, [bits64 p.fourth.output]⟩ :: rs : List Response) = ⟨.ok, [bits64 y4]⟩ :: rs := by
  have hnan : ∀ v ∈ (c.cascade kind n x).values, v.isNaN = false := fun v hv => (finite_not_special (h v hv)).1
  simp only [Cascade.values, List.forall_mem_cons] at hnan
  obtain ⟨hs1, hs2, hs3, hs4, -⟩ := hnan
  obtain ⟨t1, hexec1, hresp1, hstored1⟩ := hz _ _ _ hn hs1
  obtain ⟨t2, hexec2, hresp2, hstored2⟩ := hz _ _ _ (allNaN_later hn _) hs2
  obtain ⟨t3, hexec3, hresp3, hstored3⟩ := hz _ _ _ (allNaN_later hn _) hs3
  obtain ⟨t4, hexec4, hresp4, hstored4⟩ := hz _ _ _ (allNaN_later hn _) hs4
  exact ⟨_, _, _, _, t1, t2, t3, t4, hexec1, hresp1, hstored1, hexec2, hresp2, hstored2, hexec3, hresp3, hstored3,
    hexec4, hresp4, hstored4, rfl⟩

/-- R154: `PROC` of a ladder with K = +0.0 that leaves NF at 0 runs its operand through the four stages. -/
theorem runInit_procLad_of_zero_resonance (k : Slot Ladder) (kind : StageKind) {init : Bool} {s : State}
    (hi : init = true) (hk : (k.get s).k = fZero) (hx : x ≠ F64.zero true)
    (hnf : (s.runInit k init (ruleProcLad kind x)).flt.getLsbD 3 = false) :
    ∃ (n : Nat → F64) (drawn : Draws) (flt : BitVec 4), AllNaN n ∧
      (∀ v ∈ ((k.get s).cascade kind n x).values, v.finite = true) ∧
      s.runInit k init (ruleProcLad kind x) =
        ({ k.put ((k.get s).withStates ((k.get s).cascade kind n x)) s with draws := drawn, flt := flt }).respond
          [bits64 ((k.get s).cascade kind n x).fourth.output] := by
  have hnans := allNaN_nans (k.work s)
  have hrun := runInit_procLad k kind x hi s
  rw [hrun] at hnf
  have hfinite := finite_of_nfAny hnf
  have hfirst : (stageResult kind (later (k.work s).nans 12) (k.get s).gg (k.get s).s1
      ((k.get s).loopInput kind (k.work s).nans x)).state.isNaN = false :=
    (finite_not_special (hfinite _ List.mem_cons_self)).1
  have hinput := (stageResult_of_not_nan (allNaN_later hnans 12) hfirst).1
  have hsolved := ladder_loopInput_of_zero_resonance hnans hk hx hinput
  rw [hsolved] at hfinite
  simp only [hsolved] at hrun
  exact ⟨_, _, _, allNaN_later hnans 12, hfinite, hrun⟩

end SeriesOfStages

/-- Settles O57: each ladder runs its operand through its stages, and the standalone stages of its kind answer the
same. -/
theorem ladderAtZeroResonanceIsACascade : Obligations.LadderAtZeroResonanceIsACascade := by
  intro x s t hx _ hnf
  refine ⟨fun hi hk hexec => ?lp, fun hi hk hexec => ?hp⟩
  case lp =>
    have hrun : s.runInit slotLlp s.llp.init (ruleProcLad .lp x) = t := Host.Outcome.next.inj hexec
    rw [← hrun] at hnf
    obtain ⟨n, drawn, flt, hn, hfinite, hstate⟩ := runInit_procLad_of_zero_resonance slotLlp .lp hi hk hx hnf
    rw [← hrun, hstate]
    exact series_of_answersStage (zlp_answersStage s s.llp.gg) hn hfinite
  case hp =>
    have hrun : s.runInit slotLhp s.lhp.init (ruleProcLad .hp x) = t := Host.Outcome.next.inj hexec
    rw [← hrun] at hnf
    obtain ⟨n, drawn, flt, hn, hfinite, hstate⟩ := runInit_procLad_of_zero_resonance slotLhp .hp hi hk hx hnf
    rw [← hrun, hstate]
    exact series_of_answersStage (zhp_answersStage s s.lhp.gg) hn hfinite

end Sys2Proof.Machine
end

section
/-! PROOFS. O30 to O34 and O58, the envelope. `REND.ENV` is a sample and the transition test after it: the sample is
computed once for all states, as a function of the NaNs of its operations, and so are the transitions from the work that
the sample leaves. The first sample of a segment is then a line of R19 at m = 0, whose slope stays finite. -/

namespace Sys2Proof.Machine

section Parameters

/-- R171: what `RESET.ENV` leaves. -/
theorem ruleResetEnv_apply (sr : F64) (w : Work Env) :
    ruleResetEnv sr w = ([], { w with
      regs := { w.regs with
        sr := sr, st := .idle, cnt := fZero, seg := fZero, dlt := fZero, out := fZero, gate := false
        init := true } }) := rfl

/-- R172. -/
theorem ruleSetpEnv_apply (att dec sus rel : F64) (w : Work Env) :
    ruleSetpEnv att dec sus rel w =
      ([], { w with regs := { w.regs with att := att, dec := dec, sus := sus, rel := rel } }) := rfl

/-- R173. -/
theorem ruleGateEnv_apply (b : Bool) (w : Work Env) :
    ruleGateEnv b w = ([], { w with regs := { w.regs with gate := b } }) := rfl

end Parameters

/-- Settles O30: none of the three rules performs an operation. -/
theorem envResetParametersAndGate : Obligations.EnvResetParametersAndGate := by
  intro sr att dec sus rel b s
  refine ⟨?reset, ?setp, ?gate⟩
  case reset => exact congrArg _ (run_of_regs rfl (ruleResetEnv_apply sr (slotEnv.work s)))
  case setp => exact congrArg _ (run_of_regs rfl (ruleSetpEnv_apply att dec sus rel (slotEnv.work s)))
  case gate => exact congrArg _ (run_of_regs rfl (ruleGateEnv_apply b (slotEnv.work s)))

section Sample

/-- R175, R178 to R182: the sample of a state before its flush; `n` are the NaNs of the operations. -/
def Env.line (u : Env) (n : Nat → F64) : EnvState → F64
  | .idle => fZero
  | .attack => F64.add (n 3) u.seg (F64.mul (n 2) (F64.sub (n 1) cVmax u.seg) (F64.sqrt (n 0) u.cnt))
  | .decay =>
    F64.add (n 4) cPeak (F64.mul (n 3) (F64.sub (n 2) (F64.mul (n 1) u.sus cPeak) cPeak) (F64.mul (n 0) u.cnt u.cnt))
  | .sustain => F64.mul (n 0) u.sus cPeak
  | .release => F64.add (n 3) u.seg (F64.mul (n 2) (F64.sub (n 1) fZero u.seg) (F64.mul (n 0) u.cnt u.cnt))

/-- R175: CNT after the sample of a state; Idle and Sustain do not advance it. -/
def Env.cntAfter (u : Env) (n : Nat → F64) : EnvState → F64
  | .idle | .sustain => u.cnt
  | .attack | .release => (F64.add (n 4) u.cnt u.dlt).flush
  | .decay => (F64.add (n 5) u.cnt u.dlt).flush

/-- R175: the number of operations of a state's sample and counter advance. -/
def EnvState.sampleOps : EnvState → Nat
  | .idle => 0
  | .sustain => 1
  | .attack | .release => 5
  | .decay => 6

/-- The values a sample stores or returns that may set NF: none in Idle, whose sample is `+0.0`, and no counter in
Sustain. -/
def EnvState.sampled (st : EnvState) (cnt o : F64) : List F64 :=
  match st with
  | .idle => []
  | .sustain => [o]
  | .attack | .decay | .release => [cnt, o]

/-- R174: the work of `REND.ENV` at its transition test: the counter advanced and OUT written. -/
def Work.rendered (w : Work Env) (st : EnvState) : Work Env :=
  let cnt := w.regs.cntAfter w.nans st
  let o := (w.regs.line w.nans st).flush
  { w with
    regs := { w.regs with cnt := cnt, out := o }, draws := w.draws + st.sampleOps
    flags := w.flags ||| nfAny (st.sampled cnt o) }

variable {w : Work Env}

theorem envOut_fst (st : EnvState) (w : Work Env) : (envOut st w).1 = w.regs.line w.nans st := by cases st <;> rfl

/-- A flag set twice in a row is set once (R239). -/
theorem or_or_self (f g : BitVec 4) : f ||| g ||| g = f ||| g := by rw [BitVec.or_assoc, BitVec.or_self]

/-- R174, R175: what the sample's operations, `out` and the write of OUT leave. -/
theorem rendered_eq (st : EnvState) (w : Work Env) :
    w.rendered st =
      let p := envOut st w
      let o := p.1.flush
      { p.2 with regs := { p.2.regs with out := o }, flags := p.2.flags ||| nfFlag p.1 ||| nfFlag p.1 } := by
  cases st with
  | idle =>
    simp only [Work.rendered, EnvState.sampled, envOut_idle_apply, nfAny_nil, nfFlag_fZero, or_none]
    rfl
  | sustain | attack | decay | release =>
    simp only [Work.rendered, EnvState.sampled, envOut_fst, or_nfAny_cons, nfAny_nil, or_none, nfFlag_flush,
      or_or_self]
    rfl

/-- R174: the sample is answered, and the transition test works on what it leaves. -/
theorem ruleRendEnv_of_st {st : EnvState} (hst : w.regs.st = st) :
    ruleRendEnv w =
      let o := (w.regs.line w.nans st).flush
      ([bits64 o], (envNext st o (w.rendered st)).2) := by
  rw [ruleRendEnv_apply, hst, rendered_eq, ← envOut_fst]

/-- The sample's own NF bit is set before the transition test, so that a segment starting from it adds none. -/
theorem rendered_flags_or (st : EnvState) (w : Work Env) :
    (w.rendered st).flags ||| nfFlag (w.regs.line w.nans st).flush = (w.rendered st).flags := by
  rw [rendered_eq, nfFlag_flush, ← envOut_fst, or_or_self]

end Sample

section Transition

/-- R176: the rate of a new Attack. -/
def Env.attackRate (u : Env) (n : Nat → F64) : F64 :=
  (F64.div (n 2) fOne (F64.mul (n 1) (F64.mul (n 0) cAtkf u.att) u.sr)).flush

/-- R176: the rate of a new Decay or Release, from its time. -/
def Env.segmentRate (u : Env) (n : Nat → F64) (time : F64) : F64 :=
  (F64.div (n 1) fOne (F64.mul (n 0) time u.sr)).flush

/-- R176: the registers at the start of a new segment. -/
def Env.entered (u : Env) (st : EnvState) (rate start : F64) : Env :=
  { u with st := st, dlt := rate, cnt := fZero, seg := start }

/-- R177 to R182: the registers after the transition test of state `st` on the sample `o`; the threshold's operations
come before those of the rate. -/
def Env.next (u : Env) (n : Nat → F64) (o : F64) : EnvState → Env
  | .idle => if u.gate then u.entered .attack (u.attackRate n) fZero else u
  | .attack =>
    if u.gate then
      if F64.ge o (F64.sub (n 0) cPeak cEps) then u.entered .decay (u.segmentRate (later n 1) u.dec) u.seg else u
    else u.entered .release (u.segmentRate n u.rel) o
  | .decay =>
    if u.gate then
      if F64.le o (F64.add (n 1) (F64.mul (n 0) u.sus cPeak) cEps) then { u with st := .sustain } else u
    else u.entered .release (u.segmentRate n u.rel) o
  | .sustain => if u.gate then u else u.entered .release (u.segmentRate n u.rel) o
  | .release =>
    if u.gate then u.entered .attack (u.attackRate n) o
    else if F64.le o (F64.add (n 0) fZero cEps) then { u with st := .idle } else u

/-- R176 to R182: the NF bit of the rate that the transition test stores, if it enters a segment. -/
def Env.nextFlags (u : Env) (n : Nat → F64) (o : F64) : EnvState → BitVec 4
  | .idle => if u.gate then nfAny [u.attackRate n] else 0
  | .attack =>
    if u.gate then
      if F64.ge o (F64.sub (n 0) cPeak cEps) then nfAny [u.segmentRate (later n 1) u.dec] else 0
    else nfAny [u.segmentRate n u.rel]
  | .decay | .sustain => if u.gate then 0 else nfAny [u.segmentRate n u.rel]
  | .release => if u.gate then nfAny [u.attackRate n] else 0

/-- The work `v` is what a rule leaves of `w`: the registers `b`, and the flags `f` besides those of `w`. -/
structure Work.Leaves (w v : Work Env) (b : Env) (f : BitVec 4) : Prop where
  regs_eq : v.regs = b
  flags_eq : v.flags = w.flags ||| f

variable {w : Work Env} {o : F64}

/-- A work that differs in its draws and registers only. -/
theorem leaves_of_noFlag (w : Work Env) (b : Env) (drawn : Nat) :
    w.Leaves { w with regs := b, draws := drawn } b 0 := ⟨rfl, (or_none _).symm⟩

/-- The flags of a new segment, where the NF bit of the value it starts from is set already. -/
theorem or_rate_or_start (rate : F64) (hrec : w.flags ||| nfFlag o = w.flags) :
    w.flags ||| nfFlag rate ||| nfFlag o = w.flags ||| nfAny [rate] := by
  rw [or_nfAny_cons, nfAny_nil, or_none, BitVec.or_assoc, BitVec.or_comm (nfFlag rate), ← BitVec.or_assoc, hrec]

theorem enterAttack_leaves (ho : o.flush = o) (hrec : w.flags ||| nfFlag o = w.flags) :
    let rate := w.regs.attackRate w.nans
    w.Leaves (enterAttack o w).2 (w.regs.entered .attack rate o) (nfAny [rate]) := by
  rw [enterAttack_apply, ho]
  exact ⟨rfl, or_rate_or_start _ hrec⟩

theorem enterDecay_leaves (w : Work Env) :
    let rate := w.regs.segmentRate w.nans w.regs.dec
    w.Leaves (enterDecay w).2 (w.regs.entered .decay rate w.regs.seg) (nfAny [rate]) := by
  refine ⟨rfl, ?_⟩
  rw [enterDecay_apply, or_nfAny_cons, nfAny_nil, or_none]
  rfl

theorem enterRelease_leaves (ho : o.flush = o) (hrec : w.flags ||| nfFlag o = w.flags) :
    let rate := w.regs.segmentRate w.nans w.regs.rel
    w.Leaves (enterRelease o w).2 (w.regs.entered .release rate o) (nfAny [rate]) := by
  rw [enterRelease_apply, ho]
  exact ⟨rfl, or_rate_or_start _ hrec⟩

/-- R177 to R182: what the transition test of each state leaves, on a sample that is flushed and recorded. -/
theorem envNext_leaves (st : EnvState) (ho : o.flush = o) (hrec : w.flags ||| nfFlag o = w.flags) :
    w.Leaves (envNext st o w).2 (w.regs.next w.nans o st) (w.regs.nextFlags w.nans o st) := by
  have stays : w.Leaves w w.regs 0 := leaves_of_noFlag w w.regs w.draws
  unfold Env.next Env.nextFlags
  cases st with
  | idle =>
    rw [envNext_idle_apply]
    dsimp only
    split
    · exact enterAttack_leaves flush_fZero (by rw [nfFlag_fZero, or_none])
    · exact stays
  | attack =>
    have hthr : nanAt w.unit w.draws = w.nans 0 := rfl
    rw [envNext_attack_apply, hthr]
    dsimp only
    split
    · split
      · have hrate := enterDecay_leaves { w with draws := w.draws + 1 }
        rw [nans_advance] at hrate
        exact ⟨hrate.regs_eq, hrate.flags_eq⟩
      · exact leaves_of_noFlag w w.regs _
    · exact enterRelease_leaves ho hrec
  | decay =>
    rw [envNext_decay_apply]
    dsimp only
    split
    · exact leaves_of_noFlag w _ _
    · exact enterRelease_leaves ho hrec
  | sustain =>
    rw [envNext_sustain_apply]
    dsimp only
    split
    · exact stays
    · exact enterRelease_leaves ho hrec
  | release =>
    rw [envNext_release_apply]
    dsimp only
    split
    · exact enterAttack_leaves ho hrec
    · exact leaves_of_noFlag w _ _

variable {s : State} {st : EnvState}

/-- The next state of `REND.ENV` on an initialised unit (R174 to R182). -/
theorem exec_rendEnv_of_st (hi : s.env.init = true) (hst : s.env.st = st) :
    let n := (slotEnv.work s).nans
    let m := later n st.sampleOps
    let cnt := s.env.cntAfter n st
    let o := (s.env.line n st).flush
    let u := { s.env with cnt := cnt, out := o }
    exec .rendEnv s = .next { s with
      env := u.next m o st, flt := s.flt ||| nfAny (st.sampled cnt o) ||| u.nextFlags m o st
      draws := s.draws.set .env (ruleRendEnv (slotEnv.work s)).2.draws
      responses := ⟨.ok, [bits64 o]⟩ :: s.responses } := by
  intro n m cnt o u
  have hnans : ((slotEnv.work s).rendered st).nans = m := nans_advance _ _
  have hnext := envNext_leaves (w := (slotEnv.work s).rendered st) (o := o) st (flush_flush _)
    (rendered_flags_or st (slotEnv.work s))
  have hrule : ruleRendEnv (slotEnv.work s) = ([bits64 o], (envNext st o ((slotEnv.work s).rendered st)).2) :=
    ruleRendEnv_of_st hst
  have hexec : exec .rendEnv s = .next (s.runInit slotEnv s.env.init ruleRendEnv) := rfl
  have hrun : s.run slotEnv ruleRendEnv = ({ s with
      env := (ruleRendEnv (slotEnv.work s)).2.regs
      draws := s.draws.set .env (ruleRendEnv (slotEnv.work s)).2.draws
      flt := s.flt ||| (ruleRendEnv (slotEnv.work s)).2.flags }).respond (ruleRendEnv (slotEnv.work s)).1 := rfl
  have hflags : ((slotEnv.work s).rendered st).flags = nfAny (st.sampled cnt o) := BitVec.zero_or
  rw [hexec, State.runInit, if_pos hi, hrun, hrule, hnext.regs_eq, hnext.flags_eq, hnans, hflags, BitVec.or_assoc]
  rfl

/-- R179: the threshold of Attack is PEAK - EPS, rounded once. -/
theorem attackThreshold_eq (nan : F64) : F64.sub nan cPeak cEps = f64 0x401FFFFD60E94EE4 := by
  rw [F64.sub, add_of_finite nan (by decide) (by decide)]
  decide +kernel

/-- R182: the threshold of Release is EPS. -/
theorem releaseThreshold_eq (nan : F64) : F64.add nan fZero cEps = cEps := by
  rw [add_of_finite nan (by decide) (by decide)]
  decide +kernel

end Transition

/-- Settles O31: neither state advances the counter; Idle's sample sets no flag. -/
theorem rendEnvIdleAndSustain : Obligations.RendEnvIdleAndSustain := by
  intro s hi
  refine ⟨fun hst => ?idle, fun hst => ?sustain⟩
  case idle =>
    have hnext := exec_rendEnv_of_st hi hst
    simp only [EnvState.sampled, nfAny_nil, or_none, Env.line, flush_fZero] at hnext
    exact ⟨_, _, allNaN_nans (slotEnv.work s), hnext⟩
  case sustain => exact ⟨_, _, allNaN_nans (slotEnv.work s), exec_rendEnv_of_st hi hst⟩

/-- Settles O32: the line of Attack, then its transition test. -/
theorem rendEnvAttack : Obligations.RendEnvAttack := by
  intro s hi hst
  exact ⟨_, _, allNaN_nans (slotEnv.work s), attackThreshold_eq _, exec_rendEnv_of_st hi hst⟩

/-- Settles O33: the line of Decay, then its transition test. -/
theorem rendEnvDecay : Obligations.RendEnvDecay := by
  intro s hi hst
  exact ⟨_, _, allNaN_nans (slotEnv.work s), exec_rendEnv_of_st hi hst⟩

/-- Settles O34: the line of Release, then its transition test. -/
theorem rendEnvRelease : Obligations.RendEnvRelease := by
  intro s hi hst
  exact ⟨_, _, allNaN_nans (slotEnv.work s), releaseThreshold_eq _, exec_rendEnv_of_st hi hst⟩

section Overflow

variable {a b : F64}

/-- A magnitude is at most 53 bits long, counted from the last place of its binade up (R7). -/
theorem mag_le_of_expField {k : ℕ} (h : a.expField ≤ k + 1) : (a.mag : ℝ) ≤ (2 ^ 53 - 1) * 2 ^ k := by
  have hf := fracField_lt a
  have hnat : a.mag ≤ (2 ^ 53 - 1) * 2 ^ k := by
    unfold F64.mag
    split
    · exact le_mul_of_le_of_one_le (by omega) Nat.one_le_two_pow
    · exact Nat.mul_le_mul (by omega) (Nat.pow_le_pow_right (by omega) (by omega))
  have hcast : (a.mag : ℝ) ≤ ((2 ^ 53 - 1) * 2 ^ k : ℕ) := Nat.cast_le.2 hnat
  push_cast at hcast
  linarith

theorem mag_le_of_finite (h : a.finite = true) : (a.mag : ℝ) ≤ (2 ^ 53 - 1) * 2 ^ 2045 := by
  have hlt := expField_lt a
  have hne : a.expField ≠ 2047 := by simpa [F64.finite] using h
  exact mag_le_of_expField (by omega)

/-- A magnitude of at most 16.0 (2^1078 units of 2^-1074) added to that of a finite value is below the overflow
threshold. -/
theorem add_mag_lt_overflow (ha : a.finite = true) (hb : (b.mag : ℝ) ≤ 2 ^ 1078) :
    (a.mag : ℝ) + b.mag < (2 ^ 54 - 1) * 2 ^ 2044 := by
  have hmax := mag_le_of_finite ha
  have hunit : (2 : ℝ) ^ 2045 = 2 * 2 ^ 2044 := pow_succ' 2 2044
  have hsmall : (2 : ℝ) ^ 1078 < 2 ^ 2044 := pow_lt_pow_right₀ one_lt_two (by omega)
  rw [hunit] at hmax
  generalize (2 : ℝ) ^ 2044 = p at *
  generalize (2 : ℝ) ^ 1078 = q at *
  linarith

/-- A difference of finite values below the overflow threshold is finite (R8). -/
theorem sub_finite_of_mag (nan : F64) (ha : a.finite = true) (hb : b.finite = true)
    (h : (a.mag : ℝ) + b.mag < (2 ^ 54 - 1) * 2 ^ 2044) : (F64.sub nan a b).finite = true := by
  have hU : (0 : ℝ) < 2 ^ 1074 := by positivity
  have hdiff : |(a.val : ℝ) / 2 ^ 1074 - b.val / 2 ^ 1074| < (2 ^ 54 - 1) * 2 ^ 970 := by
    rw [← sub_div, abs_div, abs_of_pos hU, div_lt_iff₀ hU, mul_assoc, ← pow_add]
    calc |(a.val : ℝ) - b.val| ≤ |(a.val : ℝ)| + |(b.val : ℝ)| := abs_sub _ _
      _ = a.mag + b.mag := by rw [cast_val_abs, cast_val_abs]
      _ < _ := h
  have hnear := (additionAndSubtractionRoundOnce nan a b ha hb).2.1
  rw [NearestEven, if_neg (not_le.2 hdiff)] at hnear
  exact hnear.1

theorem fZero_mag_le : (fZero.mag : ℝ) ≤ 2 ^ 1078 := by
  have h : fZero.mag = 0 := by decide
  rw [h, Nat.cast_zero]
  positivity

theorem cVmax_mag_le : (cVmax.mag : ℝ) ≤ 2 ^ 1078 := by
  have h : cVmax.mag ≤ 2 ^ 1078 := by decide +kernel
  exact_mod_cast h

theorem cPeak_mag_le : (cPeak.mag : ℝ) ≤ 2 ^ 1078 := by
  have h : cPeak.mag ≤ 2 ^ 1078 := by decide +kernel
  exact_mod_cast h

end Overflow

section SegmentStart

variable {lo hi : F64} {n : Nat → F64} {u : Env} {st : EnvState} {o : F64}

/-- `a * +0.0` of a finite `a` is a zero with the sign of `a` (R8). -/
theorem mul_posZero (nan a : F64) (h : a.finite = true) : F64.mul nan a fZero = F64.zero a.sign := by
  have hcomm : F64.mul nan a fZero = F64.mul nan fZero a := by
    unfold F64.mul
    rw [Bool.or_comm a.isNaN, Bool.or_comm a.isInf, Bool.or_comm a.isZero, bne_comm, Nat.mul_comm a.mag]
  exact hcomm.trans (f64_mul_posZero nan a h)

/-- R19 at m = 0: a line starts at its lower end, exactly unless that is `-0.0`. -/
theorem line_start (k m j : F64) (hlo : lo.isNaN = false) (hne : lo ≠ F64.zero true)
    (hd : (F64.sub k hi lo).finite = true) : F64.add j lo (F64.mul m (F64.sub k hi lo) fZero) = lo := by
  have hzero : F64.mul m (F64.sub k hi lo) fZero = F64.mul m fZero (F64.sub k hi lo) :=
    (mul_posZero m _ hd).trans (f64_mul_posZero m _ hd).symm
  rw [hzero, add_posZero_mul j m hd hlo hne]

/-- R185(a): the flushed start of a line is equal to its lower end. -/
theorem line_start_eq (k m j : F64) (hlo : lo.finite = true) (hflush : lo.flush = lo)
    (hd : (F64.sub k hi lo).finite = true) :
    F64.eq (F64.add j lo (F64.mul m (F64.sub k hi lo) fZero)).flush lo = true := by
  have hnan := (finite_not_special hlo).1
  by_cases hne : lo = F64.zero true
  · rw [mul_posZero m _ hd, hne, add_of_finite j (by decide) (by cases (F64.sub k hi (F64.zero true)).sign <;> decide)]
    cases (F64.sub k hi (F64.zero true)).sign <;> decide
  · rw [line_start k m j hnan hne hd, hflush, eq_iff_rank hnan hnan]

/-- R185: the first sample of Release. -/
theorem Env.line_release_start (hcnt : u.cnt = fZero) (hfin : u.seg.finite = true) (hflush : u.seg.flush = u.seg) :
    F64.eq (u.line n .release).flush u.seg = true := by
  have hm : F64.mul (n 0) fZero fZero = fZero := mul_posZero (n 0) fZero (by decide)
  have hd : (F64.sub (n 1) fZero u.seg).finite = true :=
    sub_finite_of_mag _ (by decide) hfin (by rw [add_comm]; exact add_mag_lt_overflow hfin fZero_mag_le)
  rw [Env.line, hcnt, hm]
  exact line_start_eq _ _ _ hfin hflush hd

/-- R185: the first sample of Attack. -/
theorem Env.line_attack_start (hcnt : u.cnt = fZero) (hfin : u.seg.finite = true) (hflush : u.seg.flush = u.seg) :
    F64.eq (u.line n .attack).flush u.seg = true := by
  have hm : F64.sqrt (n 0) fZero = fZero := sqrt_of_isZero (n 0) (by decide)
  have hd : (F64.sub (n 1) cVmax u.seg).finite = true :=
    sub_finite_of_mag _ (by decide) hfin (by rw [add_comm]; exact add_mag_lt_overflow hfin cVmax_mag_le)
  rw [Env.line, hcnt, hm]
  exact line_start_eq _ _ _ hfin hflush hd

/-- R185(b): the first sample of Decay is PEAK. -/
theorem Env.line_decay_start (hcnt : u.cnt = fZero) (hsus : (F64.mul (n 1) u.sus cPeak).finite = true) :
    (u.line n .decay).flush = cPeak := by
  have hm : F64.mul (n 0) fZero fZero = fZero := mul_posZero (n 0) fZero (by decide)
  have hd : (F64.sub (n 2) (F64.mul (n 1) u.sus cPeak) cPeak).finite = true :=
    sub_finite_of_mag _ hsus (by decide) (add_mag_lt_overflow hsus cPeak_mag_le)
  rw [Env.line, hcnt, hm, line_start _ _ _ (by decide) (by decide) hd]
  decide

/-- R177 to R182: a transition test enters a segment, whose start is the sample but for Attack from Idle and for Decay,
or changes ST at most. -/
theorem Env.next_cases (u : Env) (n : Nat → F64) (o : F64) (st : EnvState) :
    (∃ rate, u.next n o st = u.entered .attack rate (if st = .idle then fZero else o)) ∨
      (∃ rate, u.next n o st = u.entered .decay rate u.seg) ∨
      (∃ rate, u.next n o st = u.entered .release rate o) ∨
      (∃ after ∈ [u.st, .sustain, .idle], u.next n o st = { u with st := after }) := by
  have stays : ∃ after ∈ [u.st, .sustain, .idle], u = { u with st := after } := ⟨u.st, by simp, rfl⟩
  unfold Env.next
  cases st with
  | idle =>
    dsimp only
    split
    · exact .inl ⟨_, rfl⟩
    · exact .inr (.inr (.inr stays))
  | attack =>
    dsimp only
    split
    · split
      · exact .inr (.inl ⟨_, rfl⟩)
      · exact .inr (.inr (.inr stays))
    · exact .inr (.inr (.inl ⟨_, rfl⟩))
  | decay =>
    dsimp only
    split
    · split
      · exact .inr (.inr (.inr ⟨.sustain, by simp, rfl⟩))
      · exact .inr (.inr (.inr stays))
    · exact .inr (.inr (.inl ⟨_, rfl⟩))
  | sustain =>
    dsimp only
    split
    · exact .inr (.inr (.inr stays))
    · exact .inr (.inr (.inl ⟨_, rfl⟩))
  | release =>
    dsimp only
    split
    · exact .inl ⟨_, rfl⟩
    · split
      · exact .inr (.inr (.inr ⟨.idle, by simp, rfl⟩))
      · exact .inr (.inr (.inr stays))

theorem Env.next_init (u : Env) (n : Nat → F64) (o : F64) (st : EnvState) : (u.next n o st).init = u.init := by
  rcases Env.next_cases u n o st with ⟨_, h⟩ | ⟨_, h⟩ | ⟨_, h⟩ | ⟨_, _, h⟩
  all_goals exact (congrArg Env.init h).trans rfl

/-- R185(a): a transition into Release, or from Release into Attack, starts the segment at the sample. -/
theorem Env.next_starts_at_sample (hst : u.st = st)
    (h : st ≠ .release ∧ (u.next n o st).st = .release ∨ st = .release ∧ (u.next n o st).st = .attack) :
    (u.next n o st).cnt = fZero ∧ (u.next n o st).seg = o := by
  rcases Env.next_cases u n o st with ⟨_, hv⟩ | ⟨_, hv⟩ | ⟨_, hv⟩ | ⟨after, hafter, hv⟩
  all_goals rw [hv] at h ⊢
  · rcases h with ⟨-, hrel⟩ | ⟨hfrom, -⟩
    · cases hrel
    · exact ⟨rfl, if_neg (by simp [hfrom])⟩
  · simp [Env.entered] at h
  · exact ⟨rfl, rfl⟩
  · simp only [List.mem_cons, List.not_mem_nil, or_false, hst] at hafter
    dsimp only at h
    rcases h with ⟨hfrom, hrel⟩ | ⟨hfrom, hatt⟩
    · simp [hrel, hfrom.symm] at hafter
    · simp [hatt, hfrom] at hafter

/-- R185(b): a transition from Attack into Decay restarts the counter. -/
theorem Env.next_decay_cnt (hst : u.st = .attack) (h : (u.next n o .attack).st = .decay) :
    (u.next n o .attack).cnt = fZero := by
  rcases Env.next_cases u n o .attack with ⟨_, hv⟩ | ⟨_, hv⟩ | ⟨_, hv⟩ | ⟨after, hafter, hv⟩
  all_goals rw [hv] at h ⊢
  · rfl
  · rfl
  · rfl
  · simp only [List.mem_cons, List.not_mem_nil, or_false, hst] at hafter
    dsimp only at h
    simp [h] at hafter

end SegmentStart

section Answer

theorem bits64_injective {a b : F64} (h : bits64 a = bits64 b) : a = b := by
  cases a
  exact congrArg F64.mk h

/-- What an answered `REND.ENV` has returned and left. -/
theorem rendEnv_answer {s t : State} {o : F64} (hi : s.env.init = true) (hexec : exec .rendEnv s = .next t)
    (hresp : t.responses = ⟨.ok, [bits64 o]⟩ :: s.responses) :
    o = (s.env.line (slotEnv.work s).nans s.env.st).flush ∧
      ∃ m cnt, t.env = Env.next { s.env with cnt := cnt, out := o } m o s.env.st := by
  have ht := Host.Outcome.next.inj (hexec.symm.trans (exec_rendEnv_of_st hi rfl))
  have ho : o = (s.env.line (slotEnv.work s).nans s.env.st).flush := by
    rw [ht] at hresp
    injection hresp with hhead
    injection hhead with _ hdata
    injection hdata with hbits
    exact (bits64_injective hbits).symm
  have henv := congrArg State.env ht
  rw [← ho] at henv
  exact ⟨ho, _, _, henv⟩

end Answer

/-- Settles O58: the first sample of a segment is a line at m = 0. -/
theorem envelopeSegmentsStartWithoutAJump : Obligations.EnvelopeSegmentsStartWithoutAJump := by
  intro s t t2 o w hi hexec hresp hexec2 hresp2
  obtain ⟨ho, m, cnt, ht⟩ := rendEnv_answer hi hexec hresp
  have hinit : t.env.init = true := by
    rw [ht, Env.next_init]
    exact hi
  obtain ⟨hw, -⟩ := rendEnv_answer hinit hexec2 hresp2
  refine ⟨fun hcont hfin => ?continued, fun hattack hdecay hsus => ?decay⟩
  case continued =>
    have hstart : t.env.cnt = fZero ∧ t.env.seg = o := by
      rw [ht] at hcont ⊢
      exact Env.next_starts_at_sample rfl hcont
    obtain ⟨hcnt, hseg⟩ := hstart
    have hflush : o.flush = o := by rw [ho, flush_flush]
    rw [← hseg] at hfin hflush ⊢
    rw [hw]
    rcases hcont with ⟨-, hrel⟩ | ⟨-, hatt⟩
    · rw [hrel]
      exact Env.line_release_start hcnt hfin hflush
    · rw [hatt]
      exact Env.line_attack_start hcnt hfin hflush
  case decay =>
    have hcnt : t.env.cnt = fZero := by
      rw [hattack] at ht
      rw [ht] at hdecay ⊢
      exact Env.next_decay_cnt hattack hdecay
    rw [hw, hdecay]
    exact Env.line_decay_start hcnt (hsus _)

end Sys2Proof.Machine
end

section
/-! PROOFS. O35 and O36, the naive oscillator OSN. A statement numbers the NaNs of all operations a command can perform;
where a command leaves some out, `splice` puts the numbering of its operations together from those of its parts. -/

namespace Sys2Proof.Machine

section Numbering

variable {n m : Nat → F64}

/-- The family `n` below `k`, and the family `m`, counted from 0, from `k` on. -/
def splice (n : Nat → F64) (k : Nat) (m : Nat → F64) (i : Nat) : F64 := if i < k then n i else m (i - k)

/-- Two families of NaNs in one: the first one's members below `k`, then the second one. -/
theorem exists_splice (hn : AllNaN n) (hm : AllNaN m) (k : Nat) :
    ∃ f, AllNaN f ∧ (∀ i < k, f i = n i) ∧ later f k = m := by
  refine ⟨splice n k m, fun i => ?nan, fun i hi => if_pos hi, funext fun i => ?later⟩
  case nan =>
    unfold splice
    split
    · exact hn i
    · exact hm (i - k)
  case later => simp [later, splice]

end Numbering

/-- The next state of a rule that needs INIT, on an initialised unit, from its effect on the unit (R75, R85, R238). -/
theorem runInit_of_apply {U : Type} {s : State} {k : Slot U} {init : Bool} {c : Calc U (List Word64)}
    {data : List Word64} {b : U} {drawn : Nat} {f : BitVec 4} (hi : init = true)
    (h : c (k.work s) = (data, { k.work s with regs := b, draws := drawn, flags := (k.work s).flags ||| f })) :
    s.runInit k init c = ({ k.put b s with draws := s.draws.set k.unit drawn, flt := s.flt ||| f }).respond data := by
  rw [State.runInit, if_pos hi, run_of_apply h]

/-- The flag of one value more (R239). -/
theorem or_nfAny_concat (f : BitVec 4) (vs : List F64) (v : F64) :
    f ||| nfAny vs ||| nfFlag v = f ||| nfAny (vs ++ [v]) := by
  induction vs generalizing f with
  | nil => rw [nfAny_nil, or_none, List.nil_append, or_nfAny_cons, nfAny_nil, or_none]
  | cons x xs ih => rw [or_nfAny_cons, ih, List.cons_append, or_nfAny_cons]

section Phase

/-- R193, R194: a counter after its one conditional subtraction. -/
def wrapped (nan p : F64) : F64 := if F64.ge p fOne then F64.sub nan p fOne else p

/-- The number of operations of the conditional subtraction. -/
def wrapOps (p : F64) : Nat := if F64.ge p fOne then 1 else 0

theorem wrapOnce_eq (p : F64) (w : Work Osn) :
    wrapOnce p w = (wrapped w.nan p, { w with draws := w.draws + wrapOps p }) := by
  rw [wrapOnce_apply, wrapped, wrapOps]
  split
  · rfl
  · rfl

/-- R193, R194: the counter with value `p` after a step, wrapped. -/
def stepped (n : Nat → F64) (p step : F64) : F64 := wrapped (n 1) (F64.add (n 0) p step)

theorem stepped_congr {n m : Nat → F64} (h : ∀ i < 2, n i = m i) (p step : F64) :
    stepped n p step = stepped m p step := by
  rw [stepped, stepped, h 0 (by decide), h 1 (by decide)]

/-- R193, R194: the number of operations of a step. -/
def stepOps (n : Nat → F64) (p step : F64) : Nat := 1 + wrapOps (F64.add (n 0) p step)

/-- R193, R194: a counter is written from a value and a step. -/
def wrStepped (r : Reg Osn) (p step : F64) : Calc Osn Unit := do wr r (← wrapOnce (← fadd p step))

theorem wrStepped_eq (r : Reg Osn) (p step : F64) (w : Work Osn) :
    wrStepped r p step w = ((), { w with
      regs := r.set (stepped w.nans p step).flush w.regs, draws := w.draws + stepOps w.nans p step
      flags := w.flags ||| nfFlag (stepped w.nans p step) }) := by
  simp only [wrStepped, calc_bind, fadd_apply, wrapOnce_eq, wr_apply, nfFlag_flush, Work.tick, Work.nan, stepped,
    stepOps, Work.nans, Nat.add_zero, Nat.add_assoc]

/-- R193: OSN with its counters at the point PHS of the cycle; `n` are the NaNs of the operations. -/
def Osn.phased (u : Osn) (n : Nat → F64) : Osn := { u with ph := u.phs.flush, tph := (stepped n u.phs fHalf).flush }

/-- R193: the NF bit that setting the phase sets. -/
def Osn.phaseFlags (u : Osn) (n : Nat → F64) : BitVec 4 := nfAny [u.phs, (u.phased n).tph]

theorem osnSetPhase_eq (w : Work Osn) :
    osnSetPhase w = ((), { w with
      regs := w.regs.phased w.nans, draws := w.draws + stepOps w.nans w.regs.phs fHalf
      flags := w.flags ||| w.regs.phaseFlags w.nans }) := by
  have hparts : osnSetPhase = regs >>= fun u => wr regPh u.phs >>= fun _ => wrStepped regTph u.phs fHalf := rfl
  simp only [hparts, calc_bind, regs_apply, wr_apply, wrStepped_eq, Osn.phaseFlags, Osn.phased, or_nfAny_cons,
    nfAny_nil, or_none, nfFlag_flush]
  rfl

/-- R191, R192: OSN with the increment of its FREQ and SR. -/
def Osn.withIncrement (u : Osn) (n : Nat → F64) : Osn := { u with inc := F64.div (n 0) u.freq u.sr }

theorem deriveInc_derives : Derives deriveInc Osn.withIncrement 1 := deriveInc_apply

/-- R191: the increment, then the phase. -/
theorem ruleResetOsn_apply (sr : F64) (w : Work Osn) :
    let u := Osn.withIncrement { w.regs with sr := sr, init := true } w.nans
    let n := later w.nans 1
    ruleResetOsn sr w = ([], { w with
      regs := u.phased n, draws := w.draws + 1 + stepOps n u.phs fHalf, flags := w.flags ||| u.phaseFlags n }) := by
  intro u n
  have hnans : Work.nans { w with regs := u, draws := w.draws + 1 } = n := nans_advance w 1
  have hrule : ruleResetOsn sr w = ([], (osnSetPhase { w with regs := u, draws := w.draws + 1 }).2) := rfl
  rw [hrule, osnSetPhase_eq, hnans]

/-- R193. -/
theorem ruleRetrigOsn_apply (w : Work Osn) :
    ruleRetrigOsn w = ([], { w with
      regs := w.regs.phased w.nans, draws := w.draws + stepOps w.nans w.regs.phs fHalf
      flags := w.flags ||| w.regs.phaseFlags w.nans }) := by
  rw [ruleRetrigOsn, calc_bind, osnSetPhase_eq, calc_pure]

end Phase

/-- Settles O35: the phase is set after at most one operation. -/
theorem osnResetParametersAndRetrigger : Obligations.OsnResetParametersAndRetrigger := by
  intro sr freq pw phs s
  have hn := allNaN_nans (slotOsn.work s)
  refine ⟨?reset, fun hi => ?stored, fun hi => ?derived, fun hi => ?retrig⟩
  case reset => exact ⟨_, _, hn, congrArg _ (run_of_apply (ruleResetOsn_apply sr (slotOsn.work s)))⟩
  case stored => exact congrArg _ (run_setp_of_uninit (k := slotOsn) hi rfl (ruleSetpOsn_apply freq pw phs _))
  case derived =>
    have hsetp := ruleSetpOsn_apply freq pw phs (slotOsn.work s)
    exact ⟨_, _, hn, congrArg _ (run_setp_of_init (k := slotOsn) deriveInc_derives hi hsetp)⟩
  case retrig =>
    exact ⟨_, _, hn, congrArg _ (runInit_of_apply (k := slotOsn) hi (ruleRetrigOsn_apply (slotOsn.work s)))⟩

section Render

/-- R194: the sawtooth before its flush. -/
def Osn.saw (u : Osn) (n : Nat → F64) : F64 := F64.sub (n 1) (F64.mul (n 0) fTwo u.ph) fOne

/-- R194: the triangle before its flush. -/
def Osn.tri (u : Osn) (n : Nat → F64) : F64 :=
  F64.sub (n 5) (F64.mul (n 4) fTwo (F64.sub (n 3) (F64.mul (n 2) fTwo u.tph) fOne).abs) fOne

/-- R194: the pulse is the sign of the sawtooth, inverted. -/
def Osn.pulse (u : Osn) (n : Nat → F64) : F64 := if F64.lt (u.saw n) fZero then fOne else fNegOne

/-- R194: OSN with both counters advanced by INC. -/
def Osn.advanced (u : Osn) (n : Nat → F64) : Osn :=
  { u with ph := (stepped n u.ph u.inc).flush, tph := (stepped (later n 2) u.tph u.inc).flush }

theorem pulse_flush (u : Osn) (n : Nat → F64) : (u.pulse n).flush = u.pulse n := by
  unfold Osn.pulse
  split
  · decide
  · decide

theorem nfFlag_pulse (u : Osn) (n : Nat → F64) : nfFlag (u.pulse n) = 0 := by
  unfold Osn.pulse
  split
  · decide
  · decide

/-- The waveforms of R194, before the advance. -/
def osnWaves (u : Osn) : Calc Osn (F64 × F64 × F64) := do
  let saw ← uni2bi u.ph
  let ts ← fsub (← fmul fTwo u.tph) fOne
  let tri ← fsub (← fmul fTwo ts.abs) fOne
  return (saw, tri, if F64.lt saw fZero then fOne else fNegOne)

theorem osnWaves_eq {n : Nat → F64} {w : Work Osn} (h : ∀ i < 6, n i = w.nans i) (u : Osn) :
    osnWaves u w = ((u.saw n, u.tri n, u.pulse n), { w with draws := w.draws + 6 }) := by
  simp only [Osn.saw, Osn.tri, Osn.pulse, h, Nat.reduceLT]
  rfl

/-- The advance of R194. -/
def osnAdvance (u : Osn) : Calc Osn Unit := do
  wrStepped regPh u.ph u.inc
  wrStepped regTph u.tph u.inc

/-- The second counter's operations are numbered from 2 on, whether or not the first one wraps. -/
theorem osnAdvance_eq (w : Work Osn) :
    ∃ m drawn, AllNaN m ∧
      let v := w.regs.advanced m
      osnAdvance w.regs w =
        ((), { w with regs := v, draws := drawn, flags := w.flags ||| nfAny [v.ph, v.tph] }) := by
  have hn := allNaN_nans w
  generalize hd : stepOps w.nans w.regs.ph w.regs.inc = d
  obtain ⟨m, hm, hbelow, hlater⟩ := exists_splice hn (allNaN_later hn d) 2
  have hfirst := stepped_congr hbelow w.regs.ph w.regs.inc
  have hsecond (v : Osn) (f : BitVec 4) :
      Work.nans { w with regs := v, draws := w.draws + d, flags := f } = later m 2 :=
    (nans_advance w d).trans hlater.symm
  refine ⟨m, w.draws + d + stepOps (later m 2) w.regs.tph w.regs.inc, hm, ?_⟩
  simp only [osnAdvance, calc_bind, wrStepped_eq, hd, hsecond, Osn.advanced, hfirst, or_nfAny_cons, nfAny_nil, or_none,
    nfFlag_flush]
  rfl

/-- R194: the waveforms, then the two advances. -/
theorem ruleRendOsn_apply (w : Work Osn) :
    ∃ n drawn, AllNaN n ∧
      let v := w.regs.advanced (later n 6)
      ruleRendOsn w = ([bits64 (w.regs.saw n).flush, bits64 (w.regs.tri n).flush, bits64 (w.regs.pulse n)], { w with
        regs := v, draws := drawn, flags := w.flags ||| nfAny [v.ph, v.tph, w.regs.saw n, w.regs.tri n] }) := by
  have hparts : ruleRendOsn = regs >>= fun u => osnWaves u >>= fun wave => osnAdvance u >>= fun _ => do
      return [bits64 (← out wave.1), bits64 (← out wave.2.1), bits64 (← out wave.2.2)] := by
    simp only [ruleRendOsn, osnWaves, osnAdvance, wrStepped, bind_assoc, pure_bind]
  obtain ⟨m, drawn, hm, hadvance⟩ := osnAdvance_eq { w with draws := w.draws + 6 }
  obtain ⟨n, hn, hbelow, hlater⟩ := exists_splice (allNaN_nans w) hm 6
  refine ⟨n, drawn, hn, ?_⟩
  rw [hlater, hparts, calc_bind, regs_apply, calc_bind, osnWaves_eq hbelow, calc_bind, hadvance]
  simp only [calc_bind, calc_pure, out_apply]
  rw [pulse_flush, nfFlag_pulse, or_none, nfFlag_flush, nfFlag_flush, or_nfAny_concat, or_nfAny_concat]
  rfl

/-- The next state of `REND.OSN` on an initialised unit (R194). -/
theorem exec_rendOsn {s : State} (hi : s.osn.init = true) :
    ∃ n drawn, AllNaN n ∧
      let v := s.osn.advanced (later n 6)
      exec .rendOsn s = .next { s with
        osn := v, flt := s.flt ||| nfAny [v.ph, v.tph, s.osn.saw n, s.osn.tri n], draws := s.draws.set .osn drawn
        responses := ⟨.ok, [bits64 (s.osn.saw n).flush, bits64 (s.osn.tri n).flush, bits64 (s.osn.pulse n)]⟩ ::
          s.responses } := by
  obtain ⟨n, drawn, hn, hrule⟩ := ruleRendOsn_apply (slotOsn.work s)
  exact ⟨n, drawn, hn, congrArg _ (runInit_of_apply (k := slotOsn) hi hrule)⟩

end Render

/-- Settles O36: INIT passes the check and OSN runs R194. -/
theorem rendOsnWaveformsAndAdvance : Obligations.RendOsnWaveformsAndAdvance := by
  intro s hi
  exact exec_rendOsn hi

end Sys2Proof.Machine
end

section
/-! PROOFS. O59, the range of OSN. A number that lies between two finite F64s is rounded to an F64 between them, so each
operation of R194 needs only the range of its exact result. The largest F64 below 1.0 bounds the counters. -/

namespace Sys2Proof

open Machine

section Values

variable {a b : F64}

/-- The value of a finite F64 (R7). -/
noncomputable def F64.real (a : F64) : ℝ := (a.val : ℝ) / 2 ^ 1074

theorem real_le_iff : a.real ≤ b.real ↔ a.val ≤ b.val := by
  rw [F64.real, F64.real, div_le_div_iff_of_pos_right (by positivity), Int.cast_le]

theorem real_lt_iff : a.real < b.real ↔ a.val < b.val := by
  rw [← not_le, real_le_iff, not_le]

theorem le_iff_real (ha : a.finite = true) (hb : b.finite = true) : F64.le a b = true ↔ a.real ≤ b.real := by
  rw [le_iff_rank (finite_not_special ha).1 (finite_not_special hb).1, rank_le_iff, real_le_iff]

theorem lt_iff_real (ha : a.finite = true) (hb : b.finite = true) : F64.lt a b = true ↔ a.real < b.real := by
  rw [lt_iff_rank (finite_not_special ha).1 (finite_not_special hb).1, rank_lt_iff, real_lt_iff]

/-- The value of a positive normal F64, whose last place is `2^-j` (R7). -/
theorem real_of_fields {k j : ℕ} (hsign : a.sign = false) (hexp : a.expField = k + 1) (hj : k + j = 1074) :
    a.real = (2 ^ 52 + a.fracField) / 2 ^ j := by
  have hval : a.val = ((2 ^ 52 + a.fracField) * 2 ^ k : ℕ) := by
    rw [F64.val, hsign, F64.mag, hexp, if_neg (Nat.succ_ne_zero k), Nat.add_sub_cancel]
    rfl
  have hpow : (2 : ℝ) ^ k ≠ 0 := by positivity
  rw [F64.real, hval, Int.cast_natCast, ← hj, pow_add, mul_comm ((2 : ℝ) ^ k), Nat.cast_mul, Nat.cast_add,
    Nat.cast_pow, Nat.cast_pow, Nat.cast_ofNat]
  exact mul_div_mul_right _ _ hpow

theorem real_neg (a : F64) : a.neg.real = -a.real := by
  rw [F64.real, val_neg, Int.cast_neg, neg_div, F64.real]

theorem abs_finite (a : F64) : a.abs.finite = a.finite := by
  rw [F64.finite, (fields_of_magBits (abs_fields a).2).1, F64.finite]

theorem real_abs (a : F64) : a.abs.real = |a.real| := by
  have hmag : a.abs.val = a.mag := by
    rw [F64.val, (abs_fields a).1, mag_eq_of_magBits_eq (abs_fields a).2]
    rfl
  have hU : (0 : ℝ) < 2 ^ 1074 := by positivity
  rw [F64.real, hmag, F64.real, abs_div, cast_val_abs, abs_of_pos hU, Int.cast_natCast]

theorem fZero_real : fZero.real = 0 := by
  have hval : fZero.val = 0 := by decide
  rw [F64.real, hval, Int.cast_zero, zero_div]

theorem fOne_real : fOne.real = 1 := by
  have hfrac : fOne.fracField = 0 := by decide
  rw [real_of_fields (k := 1022) (j := 52) (by decide) (by decide) (by decide), hfrac]
  norm_num

theorem fTwo_real : fTwo.real = 2 := by
  have hfrac : fTwo.fracField = 0 := by decide
  rw [real_of_fields (k := 1023) (j := 51) (by decide) (by decide) (by decide), hfrac]
  norm_num

theorem fNegOne_real : fNegOne.real = -1 := by
  have hneg : fNegOne = fOne.neg := by decide
  rw [hneg, real_neg, fOne_real]

theorem add_nearest (nan : F64) (ha : a.finite = true) (hb : b.finite = true) :
    NearestEven (F64.add nan a b) (a.real + b.real) := (additionAndSubtractionRoundOnce nan a b ha hb).1

theorem sub_nearest (nan : F64) (ha : a.finite = true) (hb : b.finite = true) :
    NearestEven (F64.sub nan a b) (a.real - b.real) := (additionAndSubtractionRoundOnce nan a b ha hb).2.1

theorem mul_nearest (nan : F64) (ha : a.finite = true) (hb : b.finite = true) :
    NearestEven (F64.mul nan a b) (a.real * b.real) := mul_nearestEven nan ha hb

/-- A finite value is below the overflow threshold. -/
theorem abs_real_lt (h : a.finite = true) : |a.real| < (2 ^ 54 - 1) * 2 ^ 970 := by
  have hU : (0 : ℝ) < 2 ^ 1074 := by positivity
  have hmax := mag_le_of_finite h
  rw [F64.real, abs_div, cast_val_abs, abs_of_pos hU, div_lt_iff₀ hU, mul_assoc, ← pow_add]
  rw [show (2 : ℝ) ^ 2045 = 2 * 2 ^ 2044 from pow_succ' 2 2044] at hmax
  have hP : (0 : ℝ) < 2 ^ 2044 := by positivity
  generalize (2 : ℝ) ^ 2044 = p at *
  linarith

end Values

section Ranges

variable {lo hi v r p step nan : F64}

/-- `v` is finite and lies between `lo` and `hi`. -/
structure F64.InRange (lo hi v : F64) : Prop where
  finite : v.finite = true
  lower : lo.real ≤ v.real
  upper : v.real ≤ hi.real

theorem F64.InRange.le (h : F64.InRange lo hi v) (hlo : lo.finite = true) (hhi : hi.finite = true) :
    F64.le lo v = true ∧ F64.le v hi = true :=
  ⟨(le_iff_real hlo h.finite).2 h.lower, (le_iff_real h.finite hhi).2 h.upper⟩

/-- Rounding to nearest does not leave a range whose ends are F64s (R8). -/
theorem inRange_of_nearestEven {x : ℝ} (h : NearestEven r x) (hlo : lo.finite = true) (hhi : hi.finite = true)
    (hlower : lo.real ≤ x) (hupper : x ≤ hi.real) : F64.InRange lo hi r := by
  have hsmall : |x| < (2 ^ 54 - 1) * 2 ^ 970 :=
    (abs_le_max_abs_abs hlower hupper).trans_lt (max_lt (abs_real_lt hlo) (abs_real_lt hhi))
  rw [NearestEven, if_neg (not_le.2 hsmall)] at h
  obtain ⟨hfinite, hnearest, -⟩ := h
  have hdist {c : F64} (hc : c.finite = true) : |r.real - x| ≤ |c.real - x| := hnearest c hc
  refine ⟨hfinite, le_of_not_gt fun hlt => ?_, le_of_not_gt fun hlt => ?_⟩
  · have := hdist hlo
    rw [abs_of_nonpos (by linarith), abs_of_nonpos (by linarith)] at this
    linarith
  · have := hdist hhi
    rw [abs_of_nonneg (by linarith), abs_of_nonneg (by linarith)] at this
    linarith

/-- The flush stays in a range that contains zero (R12). -/
theorem F64.InRange.flush (h : F64.InRange lo hi v) (hlower : lo.real ≤ 0) (hupper : 0 ≤ hi.real) :
    F64.InRange lo hi v.flush := by
  rw [flush_eq]
  split
  · have hzero : (F64.zero false).real = 0 := fZero_real
    exact ⟨by decide, by rwa [hzero], by rwa [hzero]⟩
  · exact h

/-- `UNI2BI` takes 0..1 to -1..1 (R19). -/
theorem uni2bi_inRange (n m : F64) (h : F64.InRange fZero fOne v) :
    F64.InRange fNegOne fOne (F64.sub m (F64.mul n fTwo v) fOne) := by
  obtain ⟨hfinite, hlower, hupper⟩ := h
  rw [fZero_real] at hlower
  rw [fOne_real] at hupper
  have hdouble : F64.InRange fZero fTwo (F64.mul n fTwo v) := by
    refine inRange_of_nearestEven (mul_nearest n (by decide) hfinite) (by decide) (by decide) ?_ ?_
    · rw [fZero_real, fTwo_real]
      linarith
    · rw [fTwo_real]
      linarith
  obtain ⟨hdfinite, hdlower, hdupper⟩ := hdouble
  rw [fZero_real] at hdlower
  rw [fTwo_real] at hdupper
  refine inRange_of_nearestEven (sub_nearest m hdfinite (by decide)) (by decide) (by decide) ?_ ?_
  · rw [fNegOne_real, fOne_real]
    linarith
  · rw [fOne_real]
    linarith

theorem abs_inRange (h : F64.InRange fNegOne fOne v) : F64.InRange fZero fOne v.abs := by
  obtain ⟨hfinite, hlower, hupper⟩ := h
  rw [fNegOne_real] at hlower
  rw [fOne_real] at hupper
  refine ⟨by rwa [abs_finite], ?_, ?_⟩
  · rw [real_abs, fZero_real]
    exact abs_nonneg _
  · rw [real_abs, fOne_real]
    exact abs_le.2 ⟨hlower, hupper⟩

/-- The largest F64 below 1.0. -/
def belowOne : F64 := f64 0x3FEFFFFFFFFFFFFF

/-- The largest F64 below 2.0, twice the one below 1.0. -/
def belowTwo : F64 := f64 0x3FFFFFFFFFFFFFFF

theorem belowOne_real : belowOne.real = (2 ^ 53 - 1) / 2 ^ 53 := by
  have hfrac : belowOne.fracField = 2 ^ 52 - 1 := by decide
  rw [real_of_fields (k := 1021) (j := 53) (by decide) (by decide) (by decide), hfrac]
  norm_num

theorem belowTwo_real : belowTwo.real = 2 * belowOne.real := by
  have hfrac : belowTwo.fracField = 2 ^ 52 - 1 := by decide
  rw [real_of_fields (k := 1022) (j := 52) (by decide) (by decide) (by decide), hfrac, belowOne_real]
  norm_num

theorem belowOne_bounds : 0 ≤ belowOne.real ∧ belowOne.real < 1 := by
  rw [belowOne_real]
  norm_num

/-- A value below 1.0 is at most the largest F64 below 1.0: their ranks are neighbours. -/
theorem lt_fOne_iff (h : v.finite = true) : F64.lt v fOne = true ↔ v.real ≤ belowOne.real := by
  have hnext : fOne.rank = belowOne.rank + 1 := by decide
  rw [lt_iff_rank (finite_not_special h).1 (by decide), hnext, Int.lt_add_one_iff, rank_le_iff, real_le_iff]

/-- From the rank of the infinity on, a non-negative rank is that of an infinity or a NaN. -/
theorem finite_of_rank (hlower : 0 ≤ v.rank) (hupper : v.rank < 2047 * 2 ^ 52) : v.finite = true := by
  have hm := magBits_eq v
  rw [F64.finite, bne_iff_ne]
  intro he
  rw [he] at hm
  cases hs : v.sign
  · simp only [F64.rank, hs, Bool.false_eq_true, ↓reduceIte] at hupper
    omega
  · simp only [F64.rank, hs, ↓reduceIte] at hlower
    omega

/-- The range of a counter of OSN (R43). -/
theorem counter_inRange_iff :
    F64.InRange fZero belowOne v ↔ F64.le fZero v = true ∧ F64.lt v fOne = true := by
  constructor
  · rintro ⟨hfinite, hlower, hupper⟩
    exact ⟨(le_iff_real (by decide) hfinite).2 hlower, (lt_fOne_iff hfinite).2 hupper⟩
  · rintro ⟨hle, hlt⟩
    have hnan : v.isNaN = false := by
      simp only [F64.lt, Bool.and_eq_true, Bool.not_eq_true'] at hlt
      obtain ⟨⟨hnan, -⟩, -⟩ := hlt
      exact hnan
    have hfinite : v.finite = true := by
      have hzero : fZero.rank = 0 := by decide
      have hone : fOne.rank = 1023 * 2 ^ 52 := by decide
      have hlower := (le_iff_rank (by decide) hnan).1 hle
      have hupper := (lt_iff_rank hnan (by decide)).1 hlt
      exact finite_of_rank (by omega) (by omega)
    exact ⟨hfinite, (le_iff_real (by decide) hfinite).1 hle, (lt_fOne_iff hfinite).1 hlt⟩

theorem F64.InRange.to_fOne (h : F64.InRange fZero belowOne v) : F64.InRange fZero fOne v := by
  obtain ⟨-, hone⟩ := belowOne_bounds
  refine ⟨h.finite, h.lower, h.upper.trans ?_⟩
  rw [fOne_real]
  exact hone.le

/-- A counter stays in its range when it steps by less than 1.0: the rounded sum is below 2.0, and one subtraction
brings it below 1.0 (R194). -/
theorem stepped_inRange (n : Nat → F64) (hp : F64.InRange fZero belowOne p) (hs : F64.InRange fZero belowOne step) :
    F64.InRange fZero belowOne (stepped n p step).flush := by
  obtain ⟨hbelow, hone⟩ := belowOne_bounds
  obtain ⟨hpfinite, hplower, hpupper⟩ := hp
  obtain ⟨hsfinite, hslower, hsupper⟩ := hs
  rw [fZero_real] at hplower hslower
  have hsum : F64.InRange fZero belowTwo (F64.add (n 0) p step) := by
    refine inRange_of_nearestEven (add_nearest _ hpfinite hsfinite) (by decide) (by decide) ?_ ?_
    · rw [fZero_real]
      linarith
    · rw [belowTwo_real]
      linarith
  refine F64.InRange.flush ?_ fZero_real.le hbelow
  unfold stepped wrapped
  generalize F64.add (n 0) p step = q at hsum
  obtain ⟨hqfinite, hqlower, hqupper⟩ := hsum
  split
  · next hge =>
    have hle : fOne.real ≤ q.real := (le_iff_real (by decide) hqfinite).1 hge
    rw [belowTwo_real] at hqupper
    rw [fOne_real] at hle
    refine inRange_of_nearestEven (sub_nearest _ hqfinite (by decide)) (by decide) (by decide) ?_ ?_
    · rw [fZero_real, fOne_real]
      linarith
    · rw [fOne_real]
      linarith
  · next hlt =>
    have hlt : F64.lt q fOne = true := by
      rw [lt_iff_real hqfinite (by decide), ← not_le, ← le_iff_real (by decide) hqfinite]
      exact hlt
    exact counter_inRange_iff.2 ⟨(le_iff_real (by decide) hqfinite).2 hqlower, hlt⟩

end Ranges

end Sys2Proof

namespace Sys2Proof.Machine

variable {u : Osn}

theorem pulse_inRange (u : Osn) (n : Nat → F64) : F64.InRange fNegOne fOne (u.pulse n) := by
  have hends : fNegOne.real ≤ fOne.real := by
    rw [fNegOne_real, fOne_real]
    norm_num
  unfold Osn.pulse
  split
  · exact ⟨by decide, hends, le_rfl⟩
  · exact ⟨by decide, le_rfl, hends⟩

/-- The three outputs of R194, as they are returned. -/
theorem outputs_inRange (n : Nat → F64) (hph : F64.InRange fZero fOne u.ph) (htph : F64.InRange fZero fOne u.tph) :
    ∀ v ∈ [(u.saw n).flush, (u.tri n).flush, u.pulse n], F64.InRange fNegOne fOne v := by
  have hneg : fNegOne.real ≤ 0 := by
    rw [fNegOne_real]
    norm_num
  have hpos : 0 ≤ fOne.real := by
    rw [fOne_real]
    norm_num
  have hsaw := (uni2bi_inRange (n 0) (n 1) hph).flush hneg hpos
  have htri := (uni2bi_inRange (n 4) (n 5) (abs_inRange (uni2bi_inRange (n 2) (n 3) htph))).flush hneg hpos
  intro v hv
  simp only [List.mem_cons, List.not_mem_nil, or_false] at hv
  rcases hv with rfl | rfl | rfl
  · exact hsaw
  · exact htri
  · exact pulse_inRange u n

/-- Settles O59: the counters and INC are in the range of a counter, and each operation of R194 stays in its range. -/
theorem osnPhaseStaysInTheUnitInterval : Obligations.OsnPhaseStaysInTheUnitInterval := by
  intro s t hi hexec hrange
  have hcounter {v : F64} (hv : v ∈ [s.osn.ph, s.osn.tph, s.osn.inc]) : F64.InRange fZero belowOne v :=
    counter_inRange_iff.2 (hrange v hv)
  have hph := hcounter (v := s.osn.ph) (by simp)
  have htph := hcounter (v := s.osn.tph) (by simp)
  have hinc := hcounter (v := s.osn.inc) (by simp)
  obtain ⟨n, drawn, -, hnext⟩ := exec_rendOsn hi
  obtain rfl := Host.Outcome.next.inj (hnext.symm.trans hexec)
  refine ⟨fun v hv => counter_inRange_iff.1 ?counters, _, _, _, rfl, fun v hv => ?outputs⟩
  case counters =>
    simp only [List.mem_cons, List.not_mem_nil, or_false] at hv
    rcases hv with rfl | rfl
    · exact stepped_inRange _ hph hinc
    · exact stepped_inRange _ htph hinc
  case outputs => exact (outputs_inRange n hph.to_fOne htph.to_fOne v hv).le (by decide) (by decide)

end Sys2Proof.Machine
end

section
/-! PROOFS. O37 to O39, the anti-aliased oscillator OSA. The derivation is computed once, corner by corner, and so is
the phase; `RESET.OSA`, `SETP.OSA` and `RETRIG.OSA` are made of the two. In `REND.OSA` a region that performs fewer
operations than another is numbered as the longest one, and `exists_splice` puts the parts together. -/

namespace Sys2Proof.Machine

section Derivation

/-- R201: the outer coefficients `(c2, c0)` of a corner; `n` are the NaNs of the operations. -/
def cornerOuterOf (n : Nat → F64) (v sIn sOut m r : F64) : F64 × F64 :=
  (F64.div (n 3) (F64.sub (n 0) sOut sIn) (F64.mul (n 2) (F64.mul (n 1) fTwo sIn) sIn),
    F64.add (n 13)
      (F64.sub (n 7) v (F64.div (n 6) (F64.mul (n 4) m m) (F64.mul (n 5) fTwo sIn)))
      (F64.div (n 12) (F64.mul (n 9) sOut (F64.mul (n 8) r r)) (F64.mul (n 11) (F64.mul (n 10) fTwo sIn) sIn)))

/-- R201: TOPC. -/
def topTripleOf (n : Nat → F64) (a b ha : F64) : Triple :=
  let m := F64.add (n 0) fOne ha
  let r := F64.sub (n 1) fOne ha
  let outer := cornerOuterOf (later n 2) fOne a b m r
  ⟨outer.1, F64.sub (n 20) (F64.div (n 16) m a) (F64.div (n 19) (F64.mul (n 17) b r) (F64.mul (n 18) a a)), outer.2⟩

/-- R201: BOTC. -/
def botTripleOf (n : Nat → F64) (a b hb : F64) : Triple :=
  let m := F64.sub (n 0) fOne hb
  let r := F64.add (n 1) fOne hb
  let outer := cornerOuterOf (later n 2) fNegOne b a m r
  ⟨outer.1, F64.sub (n 20) (F64.div (n 18) (F64.mul (n 16) a r) (F64.mul (n 17) b b)) (F64.div (n 19) m b), outer.2⟩

/-- R205: OSA with the DC offsets of its PW. -/
def Osa.withOffsets (u : Osa) (n : Nat → F64) : Osa :=
  let asym := F64.mul (n 2) (F64.sub (n 1) u.pw (F64.sub (n 0) fOne u.pw)) Config.dcPer
  { u with dcp := F64.mul (n 3) Config.kdcPulse asym, dct := F64.mul (n 4) Config.kdcTri asym }

/-- R201: OSA with the registers of its FREQ, PW and SR, and the DC offsets. -/
def Osa.withCoefficients (u : Osa) (n : Nat → F64) : Osa :=
  let d := F64.div (n 0) u.freq u.sr
  let inc2 := F64.mul (n 1) fTwo d
  let rd := F64.div (n 3) fOne d
  let e := F64.sub (n 7) (F64.mul (n 6) fTwo u.pw) fOne
  let a := F64.div (n 11) inc2 u.pw
  let b := (F64.div (n 13) inc2 (F64.sub (n 12) fOne u.pw)).neg
  let ha := F64.mul (n 14) a fHalf
  let hb := F64.mul (n 15) b fHalf
  Osa.withOffsets
    { u with
      d := d, inc2 := inc2, sthr := F64.sub (n 2) fOne d, rd := rd
      sawc := ⟨fZero, F64.sub (n 4) fOne rd, F64.sub (n 5) rd fOne⟩, pupc := ⟨fZero, rd, rd.neg⟩
      e := e, elo := F64.sub (n 8) e d, ehi := F64.add (n 9) e d, pdnc := ⟨fZero, rd.neg, F64.mul (n 10) rd e⟩
      a := a, b := b, tthr := F64.sub (n 16) fOne ha, bthr := F64.sub (n 17) fNegOne hb
      topc := topTripleOf (later n 18) a b ha, botc := botTripleOf (later n 39) a b hb
      rba := F64.div (n 60) b a, rab := F64.div (n 61) a b }
    (later n 62)

/-- R201, R205: each operation of the derivation has its number in `withCoefficients`, by computation. -/
theorem deriveOsa_derives : Derives deriveOsa Osa.withCoefficients 67 := fun _ => rfl

end Derivation

section Phase

/-- R204: OSA at the point PHS of its cycle; `n` are the NaNs of the operations. -/
def Osa.phased (u : Osa) (n : Nat → F64) : Osa :=
  let up := F64.lt u.phs u.pw
  { u with
    ps := (F64.sub (n 1) (F64.mul (n 0) fTwo u.phs) fOne).flush
    pt :=
      if up then (F64.add (n 4) fNegOne (F64.div (n 3) (F64.mul (n 2) fTwo u.phs) u.pw)).flush
      else (F64.sub (n 6) fOne (F64.div (n 5) (F64.mul (n 3) fTwo (F64.sub (n 2) u.phs u.pw))
        (F64.sub (n 4) fOne u.pw))).flush
    dir := if up then .up else .down }

/-- R204: the NF bit that setting the phase sets. -/
def Osa.phaseFlags (u : Osa) (n : Nat → F64) : BitVec 4 := nfAny [(u.phased n).ps, (u.phased n).pt]

/-- R204: the number of operations of setting the phase. -/
def Osa.phaseOps (u : Osa) : Nat := if F64.lt u.phs u.pw then 5 else 7

theorem osaSetPhase_eq (w : Work Osa) :
    osaSetPhase w = ((), { w with
      regs := w.regs.phased w.nans, draws := w.draws + w.regs.phaseOps
      flags := w.flags ||| w.regs.phaseFlags w.nans }) := by
  rw [osaSetPhase_apply]
  simp only [Osa.phaseFlags, Osa.phaseOps, Osa.phased, or_nfAny_cons, nfAny_nil, or_none, ← apply_ite F64.flush,
    Work.nans, Nat.add_zero]

/-- R203. -/
theorem ruleRetrigOsa_apply (w : Work Osa) :
    ruleRetrigOsa w = ([], { w with
      regs := w.regs.phased w.nans, draws := w.draws + w.regs.phaseOps
      flags := w.flags ||| w.regs.phaseFlags w.nans }) := by
  rw [ruleRetrigOsa, calc_bind, osaSetPhase_eq, calc_pure]

/-- R202: the derivation, then the phase. -/
theorem ruleResetOsa_apply (sr : F64) (w : Work Osa) :
    let u := Osa.withCoefficients { w.regs with sr := sr, init := true } w.nans
    let n := later w.nans 67
    ruleResetOsa sr w = ([], { w with
      regs := u.phased n, draws := w.draws + 67 + u.phaseOps, flags := w.flags ||| u.phaseFlags n }) := by
  intro u n
  have hrule : ruleResetOsa sr w =
      ([], (osaSetPhase (deriveOsa { w with regs := { w.regs with sr := sr, init := true } }).2).2) := rfl
  have hnans : Work.nans { w with regs := u, draws := w.draws + 67 } = n := nans_advance w 67
  have hderived : (deriveOsa { w with regs := { w.regs with sr := sr, init := true } }).2 =
    { w with regs := u, draws := w.draws + 67 } := by rw [deriveOsa_derives]; rfl
  rw [hrule, hderived, osaSetPhase_eq, hnans]

end Phase

/-- Settles O37: 67 operations derive the registers from FREQ, PW and the new SR, then the phase is set. -/
theorem resetOsaDerivesAndSetsThePhase : Obligations.ResetOsaDerivesAndSetsThePhase := by
  intro sr s
  exact ⟨_, _, allNaN_nans (slotOsa.work s), congrArg _ (run_of_apply (ruleResetOsa_apply sr (slotOsa.work s)))⟩

/-- Settles O38: the parameters are stored; the derivation runs only for an initialised unit and a change. -/
theorem osaParametersAndRetrigger : Obligations.OsaParametersAndRetrigger := by
  intro freq pw phs s
  have hn := allNaN_nans (slotOsa.work s)
  have hsetp := ruleSetpOsa_apply freq pw phs (slotOsa.work s)
  refine ⟨fun hkeep => ?stored, fun hi hchg => ?derived, fun hi => ?retrig⟩
  case stored =>
    have hskip : (s.osa.init && (F64.ne freq s.osa.freq || F64.ne pw s.osa.pw)) = false := by
      rcases hkeep with hi | ⟨hfreq, hpw⟩
      · rw [hi, Bool.false_and]
      · rw [hfreq, hpw, Bool.or_self, Bool.and_false]
    exact congrArg _ (run_setp_of_uninit (k := slotOsa) hskip rfl hsetp)
  case derived =>
    have hderive : (s.osa.init && (F64.ne freq s.osa.freq || F64.ne pw s.osa.pw)) = true := by
      rw [hi, Bool.true_and, Bool.or_eq_true]
      exact hchg
    exact ⟨_, _, hn, congrArg _ (run_setp_of_init (k := slotOsa) deriveOsa_derives hderive hsetp)⟩
  case retrig =>
    exact ⟨_, _, hn, congrArg _ (runInit_of_apply (k := slotOsa) hi (ruleRetrigOsa_apply (slotOsa.work s)))⟩

section Render

/-- R20: the corrector's polynomial; `n` are the NaNs of the operations. -/
def polyOf (n : Nat → F64) (c : Triple) (p : F64) : F64 :=
  F64.add (n 3) (F64.mul (n 2) (F64.add (n 1) (F64.mul (n 0) c.c2 p) c.c1) p) c.c0

/-- R207: the wrap region. -/
def Osa.wraps (u : Osa) : Bool := F64.gt u.ps u.sthr

/-- R207: the region of the falling edge. -/
def Osa.falls (u : Osa) : Bool := F64.gt u.ps u.elo && F64.le u.ps u.ehi

/-- R207: the sawtooth. -/
def Osa.saw (u : Osa) (n : Nat → F64) : F64 := if u.wraps then polyOf n u.sawc u.ps else u.ps

/-- R207: the pulse. -/
def Osa.pulse (u : Osa) (n : Nat → F64) : F64 :=
  if u.wraps then polyOf (later n 4) u.pupc u.ps
  else if u.falls then polyOf n u.pdnc u.ps
  else if F64.lt u.ps u.e then fOne else fNegOne

/-- R207: PS after its advance. -/
def Osa.psAfter (u : Osa) (n : Nat → F64) : F64 :=
  (if u.wraps then F64.add (n 9) (F64.sub (n 8) u.ps fTwo) u.inc2 else F64.add (n 9) u.ps u.inc2).flush

/-- R207, numbered as if every region took the ten operations of the wrap region. -/
theorem osaSawPulse_eq (w : Work Osa) :
    ∃ n drawn, AllNaN n ∧ osaSawPulse w = ((w.regs.saw n, w.regs.pulse n), { w with
      regs := { w.regs with ps := w.regs.psAfter n }, draws := drawn
      flags := w.flags ||| nfFlag (w.regs.psAfter n) }) := by
  have hn := allNaN_nans w
  cases hwrap : F64.gt w.regs.ps w.regs.sthr
  · cases hfall : F64.gt w.regs.ps w.regs.elo && F64.le w.regs.ps w.regs.ehi
    · obtain ⟨m, hm, -, hlater⟩ := exists_splice hn hn 9
      have hadvance : m 9 = w.nans 0 := congrFun hlater 0
      refine ⟨m, w.draws + 1, hm, ?_⟩
      simp only [osaSawPulse_apply, Osa.saw, Osa.pulse, Osa.psAfter, Osa.wraps, Osa.falls, hwrap, hfall, hadvance,
        Bool.false_eq_true, ↓reduceIte]
      rfl
    · obtain ⟨m, hm, hbelow, hlater⟩ := exists_splice hn (allNaN_later hn 4) 9
      have hadvance : m 9 = w.nans 4 := congrFun hlater 0
      refine ⟨m, w.draws + 5, hm, ?_⟩
      simp only [osaSawPulse_apply, Osa.saw, Osa.pulse, Osa.psAfter, Osa.wraps, Osa.falls, hwrap, hfall, hadvance,
        polyOf, hbelow, Nat.reduceLT, Bool.false_eq_true, ↓reduceIte]
      rfl
  · refine ⟨w.nans, w.draws + 10, hn, ?_⟩
    simp only [osaSawPulse_apply, Osa.saw, Osa.pulse, Osa.psAfter, Osa.wraps, hwrap, ↓reduceIte]
    rfl

theorem osaSawPulse_congr {n m : Nat → F64} (h : ∀ i < 10, n i = m i) (u : Osa) :
    u.saw n = u.saw m ∧ u.pulse n = u.pulse m ∧ u.psAfter n = u.psAfter m := by
  simp only [Osa.saw, Osa.pulse, Osa.psAfter, polyOf, later, h, Nat.reduceAdd, Nat.reduceLT, and_self]

/-- R208: the triangle. -/
def Osa.tri (u : Osa) (n : Nat → F64) : F64 :=
  match u.dir with
  | .up => if F64.gt u.pt u.tthr then polyOf n u.topc u.pt else u.pt
  | .down => if F64.lt u.pt u.bthr then polyOf n u.botc u.pt else u.pt

/-- R208: PT after its advance. -/
def Osa.ptAfter (u : Osa) (n : Nat → F64) : F64 :=
  (match u.dir with
    | .up =>
      if F64.gt u.pt u.tthr then
        F64.add (n 7) (F64.add (n 6) fOne (F64.mul (n 5) u.rba (F64.sub (n 4) u.pt fOne))) u.b
      else F64.add (n 7) u.pt u.a
    | .down =>
      if F64.lt u.pt u.bthr then
        F64.add (n 7) (F64.add (n 6) fNegOne (F64.mul (n 5) u.rab (F64.add (n 4) u.pt fOne))) u.a
      else F64.add (n 7) u.pt u.b).flush

/-- R208: DIR after the corner test. -/
def Osa.dirAfter (u : Osa) : Dir :=
  match u.dir with
  | .up => if F64.gt u.pt u.tthr then .down else .up
  | .down => if F64.lt u.pt u.bthr then .up else .down

/-- R208, numbered as if the straight runs took the eight operations of a corner. -/
theorem osaTri_eq (w : Work Osa) :
    ∃ n drawn, AllNaN n ∧ osaTri w = (w.regs.tri n, { w with
      regs := { w.regs with pt := w.regs.ptAfter n, dir := w.regs.dirAfter }, draws := drawn
      flags := w.flags ||| nfFlag (w.regs.ptAfter n) }) := by
  have hn := allNaN_nans w
  obtain ⟨m, hm, -, hlater⟩ := exists_splice hn hn 7
  have hadvance : m 7 = w.nans 0 := congrFun hlater 0
  cases hdir : w.regs.dir with
  | up | down =>
    simp only [osaTri_apply, Osa.tri, Osa.ptAfter, Osa.dirAfter, hdir]
    split
    · exact ⟨w.nans, w.draws + 8, hn, rfl⟩
    · exact ⟨m, w.draws + 1, hm, by rw [hadvance]; rfl⟩

theorem osaTri_congr {n m : Nat → F64} (h : ∀ i < 8, n i = m i) (u : Osa) :
    u.tri n = u.tri m ∧ u.ptAfter n = u.ptAfter m := by
  simp only [Osa.tri, Osa.ptAfter, polyOf, h, Nat.reduceLT, and_self]

/-- R206: OSA after both parts have advanced. -/
def Osa.advanced (u : Osa) (n : Nat → F64) : Osa :=
  { u with ps := u.psAfter n, pt := u.ptAfter (later n 10), dir := u.dirAfter }

/-- R206: the triangle as it is returned, less its DC offset. -/
def Osa.triOut (u : Osa) (n : Nat → F64) : F64 := (F64.sub (n 18) (u.tri (later n 10)) u.dct).flush

/-- R206: the pulse as it is returned, less its DC offset. -/
def Osa.pulseOut (u : Osa) (n : Nat → F64) : F64 := (F64.sub (n 19) (u.pulse n) u.dcp).flush

/-- R206: both parts, before the outputs. -/
def osaParts : Calc Osa (F64 × F64 × F64) := do
  let (saw, pul) ← osaSawPulse
  let tri ← osaTri
  return (saw, pul, tri)

/-- R206: both parts in one numbering, in which the operations of the outputs follow from 18 on. -/
theorem osaParts_eq (w : Work Osa) :
    ∃ n drawn, AllNaN n ∧ later n 18 = Work.nans { w with draws := drawn } ∧
      let u := w.regs
      let v := u.advanced n
      osaParts w = ((u.saw n, u.pulse n, u.tri (later n 10)), { w with
        regs := v, draws := drawn, flags := w.flags ||| nfAny [v.ps, v.pt] }) := by
  obtain ⟨n₁, d₁, hn₁, hsawPulse⟩ := osaSawPulse_eq w
  obtain ⟨n₂, d₂, hn₂, htri⟩ := osaTri_eq { w with
    regs := { w.regs with ps := w.regs.psAfter n₁ }, draws := d₁, flags := w.flags ||| nfFlag (w.regs.psAfter n₁) }
  obtain ⟨n₃, hn₃, hbelow₂, hlater₂⟩ := exists_splice hn₂ (allNaN_nans { w with draws := d₂ }) 8
  obtain ⟨n, hn, hbelow₁, hlater₁⟩ := exists_splice hn₁ hn₃ 10
  obtain ⟨hsaw, hpulse, hps⟩ := osaSawPulse_congr hbelow₁ w.regs
  obtain ⟨htriangle, hpt⟩ := osaTri_congr hbelow₂ w.regs
  have houtputs : later n 18 = later (later n 10) 8 := by
    funext i
    simp only [later, ← Nat.add_assoc, Nat.reduceAdd]
  refine ⟨n, d₂, hn, by rw [houtputs, hlater₁, hlater₂], ?_⟩
  simp only [osaParts, calc_bind, calc_pure, hsawPulse, htri, Osa.advanced, hlater₁, hsaw, hpulse, hps, htriangle, hpt,
    or_nfAny_cons, nfAny_nil, or_none]
  rfl

/-- R206: both parts run, then the outputs are returned. -/
theorem ruleRendOsa_apply (w : Work Osa) :
    ∃ n drawn, AllNaN n ∧
      let u := w.regs
      let v := u.advanced n
      ruleRendOsa w = ([bits64 (u.saw n).flush, bits64 (u.triOut n), bits64 (u.pulseOut n)], { w with
        regs := v, draws := drawn, flags := w.flags ||| nfAny [v.ps, v.pt, u.saw n, u.triOut n, u.pulseOut n] }) := by
  obtain ⟨n, drawn, hn, houtputs, hparts⟩ := osaParts_eq w
  have htri : nanAt w.unit drawn = n 18 := (congrFun houtputs 0).symm
  have hpulse : nanAt w.unit (drawn + 1) = n 19 := (congrFun houtputs 1).symm
  have hrule : ruleRendOsa = regs >>= fun u => osaParts >>= fun p => do
      return [bits64 (← out p.1), bits64 (← out (← fsub p.2.2 u.dct)), bits64 (← out (← fsub p.2.1 u.dcp))] := by
    simp only [ruleRendOsa, osaParts, bind_assoc, pure_bind]
  refine ⟨n, drawn + 2, hn, ?_⟩
  rw [hrule, calc_bind, regs_apply, calc_bind, hparts]
  simp only [calc_bind, calc_pure, out_apply, fsub_apply, Work.nan, Work.tick, htri, hpulse]
  rw [nfFlag_flush, or_nfAny_concat, or_nfAny_concat, or_nfAny_concat]
  rfl

end Render

/-- Settles O39: INIT passes the check and OSA runs R206 on its slot. -/
theorem rendOsaCorrectsTheEdges : Obligations.RendOsaCorrectsTheEdges := by
  intro s hi
  obtain ⟨n, drawn, hn, hrule⟩ := ruleRendOsa_apply (slotOsa.work s)
  exact ⟨n, drawn, hn, congrArg _ (runInit_of_apply (k := slotOsa) hi hrule)⟩

end Sys2Proof.Machine
end

section
/-! PROOFS. O21 and O22, `GETS`. One lemma says what reading back a list of words answers; each unit then adds only that
its registers in index order are the words of its table. -/

namespace Sys2Proof.Machine

variable {regs words : List Word64} {idx : BitVec 8} {s : State}

/-- R221: an index inside the table answers its word. -/
theorem readBack_of_lt (h : idx.toNat < words.length) : s.readBack words idx = s.respond [words[idx.toNat]] := by
  rcases readBack_cases words idx s with ⟨w, hw, hs⟩ | ⟨hnone, -⟩
  · obtain ⟨_, hget⟩ := List.getElem?_eq_some_iff.mp hw
    rw [hs, hget]
  · exact absurd h (Nat.not_lt.mpr (List.getElem?_eq_none_iff.mp hnone))

/-- R93, log 11: an index past the table is refused. -/
theorem readBack_of_le (h : words.length ≤ idx.toNat) : s.readBack words idx = s.refuse .illegal := by
  rcases readBack_cases words idx s with ⟨w, hw, -⟩ | ⟨-, hs⟩
  · obtain ⟨hlt, -⟩ := List.getElem?_eq_some_iff.mp hw
    exact absurd hlt (Nat.not_lt.mpr h)
  · exact hs

/-- R221 for a command that reads back `regs`, told by the words of the unit's table. -/
theorem exec_of_readBack {i : Instr} (hexec : exec i s = .next (s.readBack regs idx)) (hregs : regs = words) :
    (∀ h : idx.toNat < words.length, exec i s = .next { s with
        responses := ⟨.ok, [words[idx.toNat]]⟩ :: s.responses }) ∧
      (words.length ≤ idx.toNat → exec i s = .next { s with
        flt := s.flt ||| 0b0001, responses := ⟨.illegal, []⟩ :: s.responses }) := by
  subst hregs
  exact ⟨fun h => hexec.trans (congrArg _ (readBack_of_lt h)), fun h => hexec.trans (congrArg _ (readBack_of_le h))⟩

/-- Settles O21: FORM is read back by its code; the other registers of the six tables stand in them as they are. -/
theorem registerReadbackOfTheFilters : Obligations.RegisterReadbackOfTheFilters := by
  intro idx s
  refine ⟨?bq, exec_of_readBack rfl rfl, exec_of_readBack rfl rfl, exec_of_readBack rfl rfl, exec_of_readBack rfl rfl,
    exec_of_readBack rfl rfl⟩
  case bq =>
    intro form words
    have hform : s.bq.form.code.setWidth 64 = form := by
      unfold form
      cases s.bq.form with
      | direct | canonical | transposedDirect | transposedCanonical => rfl
    have hwords : s.bq.words = words := by
      rw [Bq.words, hform]
      rfl
    exact exec_of_readBack rfl hwords

/-- Settles O22: ST and DIR are read back by their codes; the other registers stand in the tables as they are. -/
theorem registerReadbackOfTheGenerators : Obligations.RegisterReadbackOfTheGenerators := by
  intro idx s
  refine ⟨?env, exec_of_readBack rfl rfl, ?osa⟩
  case env =>
    intro st words
    have hst : s.env.st.code.setWidth 64 = st := by
      unfold st
      cases s.env.st with
      | idle | attack | decay | sustain | release => rfl
    have hwords : s.env.words = words := by
      rw [Env.words, hst]
      rfl
    exact exec_of_readBack rfl hwords
  case osa =>
    intro dir words
    have hdir : s.osa.dir.code.setWidth 64 = dir := by
      unfold dir
      cases s.osa.dir with
      | up | down => rfl
    have hwords : s.osa.words = words := by
      rw [Osa.words, hdir]
      rfl
    exact exec_of_readBack rfl hwords

end Sys2Proof.Machine
end

section
/-! PROOFS. O19 and O48, what sets the bits of FLT. A command of a unit that is not reset, and `PROC.BQ` with invalid
state, are refused. For NF, each rule that only clears, loads or derives is shown to set no flag; a refusal sets another
bit than NF; so the commands that are left are the listed ones. -/

namespace Sys2Proof.Machine

section Refusals

variable {U : Type} {s : State} {x : F64}

/-- R234, R238: a command that needs INIT = 1 is refused NOT_INIT without it. -/
theorem exec_of_runInit_of_uninit {i : Instr} {k : Slot U} {init : Bool} {c : Calc U (List Word64)}
    (hexec : exec i s = .next (s.runInit k init c)) (hi : init = false) : exec i s = .next (s.refuse .notInit) := by
  subst hi
  exact hexec

/-- R235, R238: INIT is checked first, so ZV does not matter here. -/
theorem exec_procBq_of_uninit (hi : s.bq.init = false) : exec (.procBq x) s = .next (s.refuse .notInit) := by
  have hcheck : (!s.bq.init) = true := by rw [hi]; rfl
  exact congrArg _ (if_pos hcheck)

theorem exec_procBq_of_invalid (hi : s.bq.init = true) (hzv : s.bq.zv = false) :
    exec (.procBq x) s = .next (s.refuse .stateUndef) := by
  have hcheck : ¬ (!s.bq.init) = true := by simp [hi]
  have hvalid : (!s.bq.zv) = true := by rw [hzv]; rfl
  exact congrArg _ ((if_neg hcheck).trans (if_pos hvalid))

end Refusals

/-- Settles O19: what the refusals say is `State.refuse`, written out. -/
theorem audioCommandsNeedResetAndValidState : Obligations.AudioCommandsNeedResetAndValidState := by
  intro x s
  exact ⟨exec_procBq_of_uninit, exec_of_runInit_of_uninit rfl, exec_of_runInit_of_uninit rfl,
    exec_of_runInit_of_uninit rfl, exec_of_runInit_of_uninit rfl, exec_of_runInit_of_uninit rfl,
    exec_of_runInit_of_uninit rfl, exec_of_runInit_of_uninit rfl, exec_of_runInit_of_uninit rfl,
    exec_of_runInit_of_uninit rfl, exec_of_runInit_of_uninit rfl, exec_procBq_of_invalid⟩

section Flagless

variable {U α : Type}

/-- The computation neither stores by `wr` nor returns by `out` a value that sets a flag (R13, R14). -/
def SetsNoFlag (c : Calc U α) : Prop := ∀ w, (c w).2.flags = w.flags

theorem Derives.setsNoFlag {derive : Calc U Unit} {f : U → (Nat → F64) → U} {ops : Nat} (h : Derives derive f ops) :
    SetsNoFlag derive := by
  intro w
  rw [h w]

/-- The shape of a `SETP` rule: plain writes, and in an initialised unit a derivation (R135, R149, R159, R192). -/
theorem setsNoFlag_setp {f : U → U} {init : U → Bool} {derive : Calc U Unit} (hd : SetsNoFlag derive) :
    SetsNoFlag (do
      plain f
      if init (← regs) then derive
      return ([] : List Word64)) := by
  intro w
  rw [setp_apply]
  cases init (f w.regs)
  · rfl
  · exact hd _

theorem deriveZdf_setsNoFlag (kind : StageKind) : SetsNoFlag (deriveZdf kind) := by
  intro w
  rw [deriveZdf_apply]

theorem ruleResetBq_setsNoFlag (sr : F64) : SetsNoFlag (ruleResetBq sr) := by
  intro w
  rw [ruleResetBq_apply]

theorem ruleClrBq_setsNoFlag : SetsNoFlag ruleClrBq := by
  intro w
  rw [ruleClrBq_apply]

theorem ruleSetpBq_setsNoFlag (fc : F64) : SetsNoFlag (ruleSetpBq fc) := by
  intro w
  cases heq : F64.eq fc w.regs.fc
  · cases hi : w.regs.init
    · rw [ruleSetpBq_of_uninit heq hi]
    · rw [ruleSetpBq_of_init heq hi]
  · rw [ruleSetpBq_of_eq heq]

theorem ruleSetformBq_setsNoFlag (f : Form) : SetsNoFlag (ruleSetformBq f) := by
  intro w
  rw [ruleSetformBq_apply]

theorem ruleLdcoefBq_setsNoFlag (a0 a1 a2 b1 b2 : F64) : SetsNoFlag (ruleLdcoefBq a0 a1 a2 b1 b2) := by
  intro w
  rw [ruleLdcoefBq_apply]

theorem ruleResetZdf_setsNoFlag (kind : StageKind) (sr : F64) : SetsNoFlag (ruleResetZdf kind sr) := by
  intro w
  rw [ruleResetZdf_apply]
  exact deriveZdf_setsNoFlag kind _

theorem ruleSetpZdf_setsNoFlag (kind : StageKind) (fc : F64) : SetsNoFlag (ruleSetpZdf kind fc) :=
  setsNoFlag_setp (deriveZdf_setsNoFlag kind)

theorem ruleResetLad_setsNoFlag (kind : StageKind) (sr : F64) : SetsNoFlag (ruleResetLad kind sr) := by
  intro w
  rw [ruleResetLad_apply]
  exact (deriveLad_derives kind).setsNoFlag _

theorem ruleSetpLad_setsNoFlag (kind : StageKind) (fc res : F64) : SetsNoFlag (ruleSetpLad kind fc res) :=
  setsNoFlag_setp (deriveLad_derives kind).setsNoFlag

theorem ruleResetSkh_setsNoFlag (sr : F64) : SetsNoFlag (ruleResetSkh sr) := by
  intro w
  rw [ruleResetSkh_apply]
  exact deriveSkh_derives.setsNoFlag _

theorem ruleSetpSkh_setsNoFlag (fc res : F64) : SetsNoFlag (ruleSetpSkh fc res) :=
  setsNoFlag_setp deriveSkh_derives.setsNoFlag

theorem ruleResetEnv_setsNoFlag (sr : F64) : SetsNoFlag (ruleResetEnv sr) := by
  intro w
  rw [ruleResetEnv_apply]

theorem ruleSetpEnv_setsNoFlag (att dec sus rel : F64) : SetsNoFlag (ruleSetpEnv att dec sus rel) := by
  intro w
  rw [ruleSetpEnv_apply]

theorem ruleGateEnv_setsNoFlag (b : Bool) : SetsNoFlag (ruleGateEnv b) := by
  intro w
  rw [ruleGateEnv_apply]

theorem ruleSetpOsn_setsNoFlag (freq pw phs : F64) : SetsNoFlag (ruleSetpOsn freq pw phs) :=
  setsNoFlag_setp deriveInc_derives.setsNoFlag

theorem ruleSetpOsa_setsNoFlag (freq pw phs : F64) : SetsNoFlag (ruleSetpOsa freq pw phs) := by
  intro w
  rw [ruleSetpOsa_apply]
  cases w.regs.init && (F64.ne freq w.regs.freq || F64.ne pw w.regs.pw)
  · rfl
  · exact deriveOsa_derives.setsNoFlag _

end Flagless

section NfBit

variable {U : Type} {s t : State}

/-- NF is in `t` as it is in `s`. -/
def KeepsNf (s t : State) : Prop := t.flt.getLsbD 3 = s.flt.getLsbD 3

/-- The commands that store by `wr` or return by `out` a value they compute (R231). -/
def RecordsNf (i : Instr) : Prop :=
  audioRate i = true ∨ i = .retrigOsn ∨ i = .retrigOsa ∨ (∃ sr, i = .resetOsn sr) ∨ ∃ sr, i = .resetOsa sr

/-- R232: no status has NF as its flag. -/
theorem Status.flag_nf (code : Status) : code.flag.getLsbD 3 = false := by
  cases code with
  | ok | illegal | notInit | stateUndef => rfl

theorem respond_keepsNf (data : List Word64) (s : State) : KeepsNf s (s.respond data) := rfl

theorem refuse_keepsNf (code : Status) (s : State) : KeepsNf s (s.refuse code) := by
  rw [KeepsNf, refuse_flt, BitVec.getLsbD_or, Status.flag_nf, Bool.or_false]

theorem readBack_keepsNf (words : List Word64) (idx : BitVec 8) (s : State) : KeepsNf s (s.readBack words idx) := by
  rcases readBack_cases words idx s with ⟨w, -, hs⟩ | ⟨-, hs⟩
  · rw [hs]; exact respond_keepsNf _ s
  · rw [hs]; exact refuse_keepsNf _ s

/-- A rule that sets no flag leaves FLT on its unit. -/
theorem run_flt_of_setsNoFlag {k : Slot U} {c : Calc U (List Word64)} (hc : SetsNoFlag c) :
    (s.run k c).flt = s.flt := by
  have hflt : (s.run k c).flt = s.flt ||| (c (k.work s)).2.flags := rfl
  have hnone : (k.work s).flags = 0 := rfl
  rw [hflt, hc, hnone, or_none]

theorem run_keepsNf {k : Slot U} {c : Calc U (List Word64)} (hc : SetsNoFlag c) : KeepsNf s (s.run k c) := by
  rw [KeepsNf, run_flt_of_setsNoFlag hc]

/-- Every instruction that is not listed leaves NF (R231, R239). -/
theorem exec_keepsNf_or_recordsNf {i : Instr} (h : exec i s = .next t) : RecordsNf i ∨ KeepsNf s t := by
  cases i with
  | procBq | procZlp | procZhp | procLlp | procLhp | procSkh | rendEnv | rendOsn | rendOsa => exact .inl (.inl rfl)
  | retrigOsn => exact .inl (.inr (.inl rfl))
  | retrigOsa => exact .inl (.inr (.inr (.inl rfl)))
  | resetOsn sr => exact .inl (.inr (.inr (.inr (.inl ⟨sr, rfl⟩))))
  | resetOsa sr => exact .inl (.inr (.inr (.inr (.inr ⟨sr, rfl⟩))))
  | getpBq | getpZlp | getpZhp | getpLlp | getpLhp | getpSkh | getpEnv | getpOsn | getpOsa | rdflt =>
    cases h; exact .inr (respond_keepsNf _ s)
  | getsBq idx | getsZlp idx | getsZhp idx | getsLlp idx | getsLhp idx | getsSkh idx | getsEnv idx | getsOsn idx
  | getsOsa idx => cases h; exact .inr (readBack_keepsNf _ idx s)
  | resetBq sr => cases h; exact .inr (run_keepsNf (ruleResetBq_setsNoFlag sr))
  | resetZlp sr | resetZhp sr => cases h; exact .inr (run_keepsNf (ruleResetZdf_setsNoFlag _ sr))
  | resetLlp sr | resetLhp sr => cases h; exact .inr (run_keepsNf (ruleResetLad_setsNoFlag _ sr))
  | resetSkh sr => cases h; exact .inr (run_keepsNf (ruleResetSkh_setsNoFlag sr))
  | resetEnv sr => cases h; exact .inr (run_keepsNf (ruleResetEnv_setsNoFlag sr))
  | clrBq => cases h; exact .inr (run_keepsNf ruleClrBq_setsNoFlag)
  | setpBq fc => cases h; exact .inr (run_keepsNf (ruleSetpBq_setsNoFlag fc))
  | setpZlp fc | setpZhp fc => cases h; exact .inr (run_keepsNf (ruleSetpZdf_setsNoFlag _ fc))
  | setpLlp fc res | setpLhp fc res => cases h; exact .inr (run_keepsNf (ruleSetpLad_setsNoFlag _ fc res))
  | setpSkh fc res => cases h; exact .inr (run_keepsNf (ruleSetpSkh_setsNoFlag fc res))
  | setpEnv att dec sus rel => cases h; exact .inr (run_keepsNf (ruleSetpEnv_setsNoFlag att dec sus rel))
  | setpOsn freq pw phs => cases h; exact .inr (run_keepsNf (ruleSetpOsn_setsNoFlag freq pw phs))
  | setpOsa freq pw phs => cases h; exact .inr (run_keepsNf (ruleSetpOsa_setsNoFlag freq pw phs))
  | gateEnv b => cases h; exact .inr (run_keepsNf (ruleGateEnv_setsNoFlag b))
  | setformBq f => cases h; exact .inr (run_keepsNf (ruleSetformBq_setsNoFlag f))
  | ldcoefBq a0 a1 a2 b1 b2 => cases h; exact .inr (run_keepsNf (ruleLdcoefBq_setsNoFlag a0 a1 a2 b1 b2))

end NfBit

/-- Settles O48: a command that changes NF is a listed one. -/
theorem nfIsSetByTheListedCommandsOnly : Obligations.NfIsSetByTheListedCommandsOnly := by
  intro i s t hexec hclear hset
  rcases exec_keepsNf_or_recordsNf hexec with hlisted | hkept
  · exact hlisted
  · have hsame : true = false := hset.symm.trans (hkept.trans hclear)
    exact absurd hsame (by decide)

end Sys2Proof.Machine
end

section
/-! PROOFS. O11, O42, O46 and O50, the power-on state and the subnormals. A state-class register is written only by `wr`
or with `+0.0`. So a rule keeps its unit free of subnormals: it leaves the state-class registers as they are, or it
stores flushed values in them. A data word of an audio-rate command has passed `out`. -/

namespace Sys2Proof.Machine

/-- Settles O11: the reset values are the rows of R250, register by register. -/
theorem powerOnState : Obligations.PowerOnState := by
  unfold Obligations.PowerOnState
  exact ⟨rfl, rfl, rfl, rfl, rfl, rfl, rfl, rfl, rfl, rfl⟩

section Subnormals

variable {U : Type} {L : U → List F64} {r : Reg U} {u : U} {w : Work U} {v : F64}

/-- None of the values is a subnormal (R256). -/
def NoSubnormal (vs : List F64) : Prop := ∀ v ∈ vs, v.isSubnormal = false

@[simp] theorem noSubnormal_nil : NoSubnormal [] := nofun

@[simp] theorem noSubnormal_cons (v : F64) (vs : List F64) :
    NoSubnormal (v :: vs) ↔ v.isSubnormal = false ∧ NoSubnormal vs := List.forall_mem_cons

theorem flushed_iff (s : State) : s.flushed = true ↔ NoSubnormal s.stateRegs := by
  simp [State.flushed, NoSubnormal]

theorem fZero_isSubnormal : fZero.isSubnormal = false := by decide

/-- Zeros are no subnormals. -/
theorem noSubnormal_zeros (k : Nat) : NoSubnormal (List.replicate k fZero) := by
  intro v hv
  rw [List.eq_of_mem_replicate hv, fZero_isSubnormal]

/-- Flushed values are no subnormals (R12). -/
theorem noSubnormal_flush (vs : List F64) : NoSubnormal (vs.map F64.flush) := by
  intro v hv
  obtain ⟨x, -, rfl⟩ := List.mem_map.1 hv
  exact flush_isSubnormal x

/-- Writing a value that is no subnormal keeps the listed registers free of subnormals. -/
theorem NoSubnormal.set (h : NoSubnormal (L u)) (hr : StoresOnly L r) (hv : v.isSubnormal = false) :
    NoSubnormal (L (r.set v u)) := by
  intro x hx
  rcases hr v u x hx with rfl | hold
  · exact hv
  · exact h x hold

/-- Registers that are as they were hold no subnormal if they held none. -/
theorem Shows.noSubnormal (h : Shows L u w) (hu : NoSubnormal (L u)) : NoSubnormal (L w.regs) := by
  rw [h.regs_eq]
  exact hu

/-- What a `SETP` rule leaves: the parameters are written in `b`, and a derivation writes no state-class register (R135,
R149, R159, R192, R200). -/
theorem setp_noSubnormal {c : Calc U (List Word64)} {derive : Calc U Unit} {derives : Bool} {b : U}
    (hc : c w = ([], if derives then (derive { w with regs := b }).2 else { w with regs := b }))
    (hd : ∀ w, Shows L w.regs (derive w).2) (hb : NoSubnormal (L b)) :
    NoSubnormal (L (c w).2.regs) := by
  rw [hc]
  cases derives with
  | false => exact hb
  | true => exact (hd _).noSubnormal hb

/-- The state that a stage stores is flushed (R131). -/
@[simp] theorem stageResult_state_isSubnormal (kind : StageKind) (n : Nat → F64) (g old x : F64) :
    (stageResult kind n g old x).state.isSubnormal = false := by
  cases kind with
  | lp | hp => exact flush_isSubnormal _

end Subnormals

section StatesOfRules

variable {kind : StageKind} {r : Bool}

section Biquad

variable {c : Calc Bq (List Word64)} {w : Work Bq}

/-- R118 to R121: each realization stores flushed values; the canonical forms leave Z2 and Z3. -/
theorem ruleProcBq_noSubnormal (x : F64) (hs : NoSubnormal w.regs.states) :
    NoSubnormal (ruleProcBq x w).2.regs.states := by
  rw [ruleProcBq_apply]
  cases w.regs.form with
  | direct => rw [realization, bqDirect_apply]; exact noSubnormal_flush [_, _, _, _]
  | canonical =>
    rw [realization, bqCanon_apply]
    exact (hs.set regZ1_storesOnly (flush_isSubnormal _)).set regZ0_storesOnly (flush_isSubnormal _)
  | transposedDirect => rw [realization, bqTransDirect_apply]; exact noSubnormal_flush [_, _, _, _]
  | transposedCanonical =>
    rw [realization, bqTransCanon_apply]
    exact (hs.set regZ0_storesOnly (flush_isSubnormal _)).set regZ1_storesOnly (flush_isSubnormal _)

theorem BqRule.noSubnormal (h : BqRule w.regs r c) (hs : NoSubnormal w.regs.states) :
    NoSubnormal (c w).2.regs.states := by
  cases h with
  | reset | clr => exact noSubnormal_zeros 4
  | setp fc => rw [ruleSetpBq_frame]; exact hs
  | setform f => rw [ruleSetformBq_frame]; exact hs
  | ldcoef => exact hs
  | proc x => exact ruleProcBq_noSubnormal x hs

end Biquad

section Zdf

variable {c : Calc Zdf (List Word64)} {w : Work Zdf}

theorem deriveZdf_states (kind : StageKind) (w : Work Zdf) : Shows Zdf.states w.regs (deriveZdf kind w).2 := by
  rw [deriveZdf_apply]
  exact ⟨rfl⟩

theorem ZdfRule.noSubnormal (h : ZdfRule kind w.regs r c) (hs : NoSubnormal w.regs.states) :
    NoSubnormal (c w).2.regs.states := by
  cases h with
  | reset sr => rw [ruleResetZdf_apply]; exact (deriveZdf_states kind _).noSubnormal (noSubnormal_zeros 1)
  | setp fc => exact setp_noSubnormal (ruleSetpZdf_apply kind fc w) (deriveZdf_states kind) hs
  | proc x =>
    rw [ruleProcZdf_apply]
    simp [Zdf.states]

end Zdf

section Ladder

variable {c : Calc Ladder (List Word64)} {w : Work Ladder}

theorem deriveLad_states (kind : StageKind) (w : Work Ladder) : Shows Ladder.states w.regs (deriveLad kind w).2 := by
  rw [deriveLad_derives]
  exact ⟨rfl⟩

theorem LadderRule.noSubnormal (h : LadderRule kind w.regs r c) (hs : NoSubnormal w.regs.states) :
    NoSubnormal (c w).2.regs.states := by
  cases h with
  | reset sr => rw [ruleResetLad_apply]; exact (deriveLad_states kind _).noSubnormal (noSubnormal_zeros 4)
  | setp fc res => exact setp_noSubnormal (ruleSetpLad_apply kind fc res w) (deriveLad_states kind) hs
  | proc x =>
    rw [ruleProcLad_apply]
    simp [Ladder.states, Ladder.withStates, Ladder.cascade]

end Ladder

section Skh

variable {c : Calc Skh (List Word64)} {w : Work Skh}

theorem deriveSkh_states (w : Work Skh) : Shows Skh.states w.regs (deriveSkh w).2 := ⟨rfl⟩

theorem SkhRule.noSubnormal (h : SkhRule w.regs r c) (hs : NoSubnormal w.regs.states) :
    NoSubnormal (c w).2.regs.states := by
  cases h with
  | reset sr => exact noSubnormal_zeros 2
  | setp fc res => exact setp_noSubnormal (ruleSetpSkh_apply fc res w) deriveSkh_states hs
  | proc x =>
    rw [ruleProcSkh_apply]
    simp [Skh.states, Skh.firstStage, Skh.secondStage]

end Skh

section Env

variable {c : Calc Env (List Word64)} {w : Work Env} {u : Env} {n : Nat → F64} {st : EnvState} {o rate start : F64}

/-- R176: a new segment stores its rate, `+0.0` and its start. -/
theorem Env.entered_noSubnormal (hu : NoSubnormal u.states) (hrate : rate.isSubnormal = false)
    (hstart : start.isSubnormal = false) : NoSubnormal (u.entered st rate start).states :=
  ((hu.set regDlt_storesOnly hrate).set regCnt_storesOnly fZero_isSubnormal).set regSeg_storesOnly hstart

/-- R177 to R182: a transition test enters a segment at a flushed rate, or changes ST at most. -/
theorem Env.next_noSubnormal (hu : NoSubnormal u.states) (ho : o.isSubnormal = false) :
    NoSubnormal (u.next n o st).states := by
  have hattack {m : Nat → F64} {start : F64} (hstart : start.isSubnormal = false) :
      NoSubnormal (u.entered .attack (u.attackRate m) start).states :=
    entered_noSubnormal hu (flush_isSubnormal _) hstart
  have hsegment {target : EnvState} {m : Nat → F64} {time start : F64} (hstart : start.isSubnormal = false) :
      NoSubnormal (u.entered target (u.segmentRate m time) start).states :=
    entered_noSubnormal hu (flush_isSubnormal _) hstart
  have hseg : u.seg.isSubnormal = false := hu _ (by simp [Env.states])
  unfold Env.next
  cases st with
  | idle =>
    dsimp only
    split
    · exact hattack fZero_isSubnormal
    · exact hu
  | attack =>
    dsimp only
    split
    · split
      · exact hsegment hseg
      · exact hu
    · exact hsegment ho
  | decay =>
    dsimp only
    split
    · split
      · exact hu
      · exact hu
    · exact hsegment ho
  | sustain =>
    dsimp only
    split
    · exact hu
    · exact hsegment ho
  | release =>
    dsimp only
    split
    · exact hattack ho
    · split
      · exact hu
      · exact hu

/-- R175: the counter stays or is advanced by `wr`. -/
theorem Env.cntAfter_noSubnormal (hu : NoSubnormal u.states) (n : Nat → F64) (st : EnvState) :
    (u.cntAfter n st).isSubnormal = false := by
  cases st with
  | idle | sustain => exact hu _ (by simp [Env.states, Env.cntAfter])
  | attack | decay | release => exact flush_isSubnormal _

/-- R174: the counter and OUT, then the transition test on the flushed sample. -/
theorem ruleRendEnv_noSubnormal (hs : NoSubnormal w.regs.states) : NoSubnormal (ruleRendEnv w).2.regs.states := by
  have hcnt := Env.cntAfter_noSubnormal hs w.nans w.regs.st
  have hrendered : NoSubnormal (w.rendered w.regs.st).regs.states :=
    (hs.set regCnt_storesOnly hcnt).set regOut_storesOnly (flush_isSubnormal _)
  have hnext := envNext_leaves w.regs.st (flush_flush _) (rendered_flags_or w.regs.st w)
  rw [ruleRendEnv_of_st rfl, hnext.regs_eq]
  exact Env.next_noSubnormal hrendered (flush_isSubnormal _)

theorem EnvRule.noSubnormal (h : EnvRule w.regs r c) (hs : NoSubnormal w.regs.states) :
    NoSubnormal (c w).2.regs.states := by
  cases h with
  | reset sr => exact noSubnormal_zeros 4
  | setp | gate => exact hs
  | rend => exact ruleRendEnv_noSubnormal hs

end Env

section Osn

variable {c : Calc Osn (List Word64)} {w : Work Osn}

theorem deriveInc_states (w : Work Osn) : Shows Osn.states w.regs (deriveInc w).2 := ⟨rfl⟩

theorem OsnRule.noSubnormal (h : OsnRule w.regs r c) (hs : NoSubnormal w.regs.states) :
    NoSubnormal (c w).2.regs.states := by
  cases h with
  | reset sr => rw [ruleResetOsn_apply]; exact noSubnormal_flush [_, _]
  | setp freq pw phs => exact setp_noSubnormal (ruleSetpOsn_apply freq pw phs w) deriveInc_states hs
  | retrig => rw [ruleRetrigOsn_apply]; exact noSubnormal_flush [_, _]
  | rend =>
    obtain ⟨n, drawn, -, hrule⟩ := ruleRendOsn_apply w
    rw [hrule]
    exact noSubnormal_flush [_, _]

end Osn

section Osa

variable {c : Calc Osa (List Word64)} {w : Work Osa}

theorem deriveOsa_states (w : Work Osa) : Shows Osa.states w.regs (deriveOsa w).2 := by
  rw [deriveOsa_derives]
  exact ⟨rfl⟩

/-- R204: both phases are written by `wr`, on either side of PW. -/
theorem Osa.phased_noSubnormal (u : Osa) (n : Nat → F64) : NoSubnormal (u.phased n).states := by
  simp only [Osa.phased, Osa.states, ← apply_ite F64.flush]
  exact noSubnormal_flush [_, _]

theorem OsaRule.noSubnormal (h : OsaRule w.regs r c) (hs : NoSubnormal w.regs.states) :
    NoSubnormal (c w).2.regs.states := by
  cases h with
  | reset sr => rw [ruleResetOsa_apply]; exact Osa.phased_noSubnormal _ _
  | setp freq pw phs => exact setp_noSubnormal (ruleSetpOsa_apply freq pw phs w) deriveOsa_states hs
  | retrig => rw [ruleRetrigOsa_apply]; exact Osa.phased_noSubnormal _ _
  | rend =>
    obtain ⟨n, drawn, -, hrule⟩ := ruleRendOsa_apply w
    rw [hrule]
    exact noSubnormal_flush [_, _]

end Osa

end StatesOfRules

section StatesOfSteps

variable {s t : State} {o : Option UnitId}

/-- Running a rule that keeps its unit free of subnormals keeps the state so. -/
theorem run_noSubnormal {U : Type} {k : Slot U} {L : U → List F64} {c : Calc U (List Word64)} (hk : SlotStates k L)
    (hc : NoSubnormal (L (k.get s)) → NoSubnormal (L (c (k.work s)).2.regs)) (hs : NoSubnormal s.stateRegs) :
    NoSubnormal (s.run k c).stateRegs := by
  have hunit := hc fun v hv => hs v (hk.mem_of_get s v hv)
  intro v hv
  rcases hk.mem_put _ _ v hv with hnew | hold
  · exact hunit v hnew
  · exact hs v hold

/-- A command changes one unit, and a rule keeps its unit free of subnormals (R256). -/
theorem Effect.noSubnormal (h : Effect s o t) (hs : NoSubnormal s.stateRegs) : NoSubnormal t.stateRegs := by
  cases h with
  | respond | refuse => exact hs
  | bq h => exact run_noSubnormal slotBq_states (h.noSubnormal (w := slotBq.work s)) hs
  | zlp h => exact run_noSubnormal slotZlp_states (h.noSubnormal (w := slotZlp.work s)) hs
  | zhp h => exact run_noSubnormal slotZhp_states (h.noSubnormal (w := slotZhp.work s)) hs
  | llp h => exact run_noSubnormal slotLlp_states (h.noSubnormal (w := slotLlp.work s)) hs
  | lhp h => exact run_noSubnormal slotLhp_states (h.noSubnormal (w := slotLhp.work s)) hs
  | skh h => exact run_noSubnormal slotSkh_states (h.noSubnormal (w := slotSkh.work s)) hs
  | env h => exact run_noSubnormal slotEnv_states (h.noSubnormal (w := slotEnv.work s)) hs
  | osn h => exact run_noSubnormal slotOsn_states (h.noSubnormal (w := slotOsn.work s)) hs
  | osa h => exact run_noSubnormal slotOsa_states (h.noSubnormal (w := slotOsa.work s)) hs

end StatesOfSteps

/-- Settles O42: a step that takes a command has that command's effect, which keeps the one unit it changes free of
subnormals. -/
theorem stateRegistersHoldNoSubnormal : Obligations.StateRegistersHoldNoSubnormal := by
  intro s t hs hstep
  rcases step_effect hstep with rfl | ⟨a, o, ha, heffect⟩
  · exact hs
  · have hbefore : NoSubnormal a.stateRegs := by
      rw [ha]
      exact (flushed_iff s).1 hs
    exact (flushed_iff t).2 (heffect.noSubnormal hbefore)

section Outputs

variable {U : Type} {s : State} {k : Slot U} {c : Calc U (List Word64)}

/-- No data word of the rule, read as an F64, is a subnormal. -/
def AnswersNoSubnormal (c : Calc U (List Word64)) : Prop := ∀ w, NoSubnormal ((c w).1.map f64)

/-- If `t` is `s` with one response more, none of its data words, read as F64s, is a subnormal. -/
def RepliesNoSubnormal (s t : State) : Prop :=
  ∀ r, t.responses = r :: s.responses → NoSubnormal (r.data.map f64)

theorem repliesNoSubnormal_of_eq {t : State} {q : Response} (hq : t.responses = q :: s.responses)
    (hdata : NoSubnormal (q.data.map f64)) : RepliesNoSubnormal s t := by
  intro r hr
  obtain ⟨rfl, -⟩ := List.cons.inj (hq.symm.trans hr)
  exact hdata

/-- A refusal carries no data (R232). -/
theorem refuse_repliesNoSubnormal (code : Status) (s : State) : RepliesNoSubnormal s (s.refuse code) :=
  repliesNoSubnormal_of_eq (refuse_responses code s) nofun

/-- A rule run on its slot is answered with its data words (R85). -/
theorem run_repliesNoSubnormal (hk : ∀ u s, (k.put u s).responses = s.responses) (hc : AnswersNoSubnormal c) :
    RepliesNoSubnormal s (s.run k c) :=
  repliesNoSubnormal_of_eq (q := ⟨.ok, (c (k.work s)).1⟩) (congrArg (_ :: ·) (hk _ s)) (hc _)

theorem runInit_repliesNoSubnormal {init : Bool} (hk : ∀ u s, (k.put u s).responses = s.responses)
    (hc : AnswersNoSubnormal c) : RepliesNoSubnormal s (s.runInit k init c) := by
  rcases runInit_cases k init c s with ⟨-, hs⟩ | ⟨-, hs⟩
  · rw [hs]; exact run_repliesNoSubnormal hk hc
  · rw [hs]; exact refuse_repliesNoSubnormal _ s

/-- R118 to R121: the sample of each realization has passed `out`. -/
theorem ruleProcBq_answers_noSubnormal (x : F64) : AnswersNoSubnormal (ruleProcBq x) := by
  intro w
  rw [ruleProcBq_apply]
  cases w.regs.form with
  | direct | canonical | transposedDirect | transposedCanonical => exact noSubnormal_flush [_]

/-- `PROC.BQ` has a check of its own besides INIT (R117). -/
theorem execProcBq_repliesNoSubnormal {t : State} {x : F64} (h : execProcBq x s = .next t) :
    RepliesNoSubnormal s t := by
  unfold execProcBq at h
  split at h
  · cases h; exact refuse_repliesNoSubnormal _ s
  split at h
  · cases h; exact refuse_repliesNoSubnormal _ s
  · cases h; exact run_repliesNoSubnormal (fun _ _ => rfl) (ruleProcBq_answers_noSubnormal x)

/-- Every `PROC` and `REND` is refused or answers what its rule returns by `out` (R14). -/
theorem exec_repliesNoSubnormal {i : Instr} {t : State} (hi : audioRate i = true) (h : exec i s = .next t) :
    RepliesNoSubnormal s t := by
  cases i with
  | procBq x => exact execProcBq_repliesNoSubnormal h
  | procZlp | procZhp | procLlp | procLhp | procSkh | rendEnv =>
    cases h; exact runInit_repliesNoSubnormal (fun _ _ => rfl) fun _ => noSubnormal_flush [_]
  | rendOsn | rendOsa =>
    cases h; exact runInit_repliesNoSubnormal (fun _ _ => rfl) fun _ => noSubnormal_flush [_, _, _]
  | _ => cases hi

end Outputs

/-- Settles O50: a data word of an audio-rate command is one that its rule returns by `out`. -/
theorem audioOutputsAreNoSubnormals : Obligations.AudioOutputsAreNoSubnormals := by
  intro i s t r hi hexec hresp w hw
  exact exec_repliesNoSubnormal hi hexec r hresp (f64 w) (List.mem_map_of_mem hw)

/-- R250: the power-on value of every state-class register is `+0.0`. -/
theorem stateRegs_reset : State.reset.stateRegs = List.replicate 24 fZero := rfl

/-- R250: no unit is initialised at power-on. -/
theorem init_reset (u : UnitId) : State.reset.init u = false := by
  cases u with
  | bq | zlp | zhp | llp | lhp | skh | env | osn | osa => rfl

theorem untouchedUnits_reset : State.reset.UntouchedUnits :=
  ⟨fun _ => rfl, fun _ => rfl, fun _ => rfl, fun _ => rfl, fun _ => rfl, fun _ => rfl, fun _ => rfl, fun _ => rfl,
    fun _ => rfl⟩

/-- The clauses of `cached` are about initialised units. -/
theorem cached_of_uninit {s : State} (h : ∀ u, s.init u = false) : s.cached := by
  have hinit {p : Prop} (u : UnitId) (hu : s.init u = true) : p := absurd hu (ne_true_of_eq_false (h u))
  exact ⟨hinit .zlp, hinit .zhp, hinit .llp, hinit .lhp, hinit .skh, hinit .osn⟩

/-- Settles O46: the state-class registers are zeros, the units hold their power-on values, none of them is initialised
and nothing is pending. -/
theorem invariantsHoldAtPowerOn : Obligations.InvariantsHoldAtPowerOn := by
  refine ⟨?flushed, ?finite, ?untouched, cached_of_uninit init_reset, rfl⟩
  case flushed =>
    rw [flushed_iff, stateRegs_reset]
    exact noSubnormal_zeros 24
  case finite =>
    rw [finiteUntilNf_iff, stateRegs_reset]
    refine .inr fun v hv => ?_
    rw [List.eq_of_mem_replicate hv]
    decide
  case untouched => exact (untouched_iff _).2 untouchedUnits_reset

end Sys2Proof.Machine
end
